-- ==== Sys2Proof/Word.lean ====
section
/-! DEFINITION. The bit-vector types of the block: what the spec treats as bits, by width (R11, R12, R76). -/

namespace Sys2Proof

/-- A byte, an unsigned integer 0 to 255 (R12, `BYTE_W` = 8). Its addition is addition mod 256 (R15 (a)). -/
abbrev Byte := BitVec 8

/-- The cycle input word `W[11:0]` (R76). -/
abbrev CycleWord := BitVec 12

/-- An operation code, `op` = `W[9:8]` (R77, `OP_W` = 2). -/
abbrev OpCode := BitVec 2

/-- A count of watchdog ticks (R11, `WD_W` = 16). -/
abbrev TickCount := BitVec 16

end Sys2Proof
end

