-- ==== Sys2Proof/Config.lean ====
section
/-! DEFINITION. The parameters of one instance (R9, R10, R11, R33) and the one free value. No event changes any of them. -/

namespace Sys2Proof.Config

/-- `SYNC`, the sync marker (R9, D1; assumption 5). -/
def sync : Byte := 0x5A#8

/-- `TIMEOUT_TICKS`, the watchdog threshold in ticks; the comparison with it is strict (R10, D2; assumption 5). -/
def timeoutTicks : TickCount := 1000#16

/-- `WD_MAX`, where the watchdog count saturates (R11, D4). -/
def wdMax : TickCount := 65535#16

/-- `TICK_MS`, the milliseconds one TICK stands for (R11, D3). -/
def tickMs : Nat := 1

/-- `BUF_DEPTH`, the number of cells of the payload buffer, indices 0 to 254 (R11, R30). -/
def bufDepth : Nat := 255

/-- The longest payload a one-byte length can declare (R100). -/
def maxPayload : Nat := 255

/-- `MIN_FRAME`, the bytes of a frame beside its payload (R11, R70). -/
def minFrame : Nat := 5

/-- `MAX_FRAME`, the longest wire frame (R11, R70). -/
def maxFrame : Nat := 260

/-- FREE VALUE. What a buffer cell that has no architectural value would read as (R30, R36, U2 "any value").
No body: nothing can be proved about it. It is read only in states no run reaches (assumption 1). -/
opaque freeCell : Nat → Byte

end Sys2Proof.Config
end

