-- ==== Sys2Proof/Syntax.lean ====
section
/-! DEFINITION. The events of the block (one constructor per row of the opcode table), the values of the Frame Model,
and the one way a number can fail to be a cycle word. -/

namespace Sys2Proof

/-- An event (R8, R19): every row of the opcode table. A cycle word is one or two of them in a row (R78). -/
inductive Instr where
  /-- RST, the hard reset (R230). -/
  | rst
  /-- TICK, one millisecond has elapsed (R184). -/
  | tick
  /-- NOP, no operation presented (R158). -/
  | nop
  /-- FEED(b), feed the byte `din` to the Assembler (R120). -/
  | feed (b : Byte)
  /-- COLLECT, hand out the completed frame (R150, R151). -/
  | collect
  /-- RESET, clear the Assembler (R155). -/
  | reset
  deriving DecidableEq, Repr

/-- A PDU: the command byte and the payload (R18, R100). -/
structure Pdu where
  cmd : Byte
  payload : List Byte
  deriving DecidableEq, Repr

/-- An SDU: the sync byte, the destination and the PDU (R18, R101). -/
structure Sdu where
  sync : Byte
  dst : Byte
  pdu : Pdu
  deriving DecidableEq, Repr

/-- `SDU(dst, cmd, payload)`: the spec's way of writing an SDU, whose sync field is always `SYNC` (R18, R101). -/
abbrev mkSdu (dst cmd : Byte) (payload : List Byte) : Sdu := ⟨Config.sync, dst, ⟨cmd, payload⟩⟩

/-- Why a number is no cycle word. Every 12-bit word is legal (R87), so width is the only reason. -/
inductive DecodeError where
  /-- The number does not fit the twelve bits of the cycle input word (R76). -/
  | wordTooWide (w : Nat)
  deriving DecidableEq, Repr

end Sys2Proof
end

