-- ==== Sys2Proof/WellFormed.lean ====
section
/-! DEFINITION. Well-formedness checks over the syntax: events, the events of one cycle, PDUs, SDUs, cycle words. -/

namespace Sys2Proof

/-- Every event is legal: FEED takes any byte, nothing else has an operand (R74, R80, R87). -/
def Instr.wellFormed : Instr → Bool
  | .rst => true
  | .tick => true
  | .nop => true
  | .feed _ => true
  | .collect => true
  | .reset => true

/-- An operation is an event other than RST and TICK (R19): what the field `op` can name (R77). -/
def Instr.isOperation : Instr → Bool
  | .rst => false
  | .tick => false
  | .nop => true
  | .feed _ => true
  | .collect => true
  | .reset => true

/-- The event sequences one cycle word can stand for: RST alone, or an operation, with at most one TICK before it (R78). -/
def cycleWellFormed : List Instr → Bool
  | [] => false
  | [.rst] => true
  | [i] => i.isOperation
  | [.tick, i] => i.isOperation
  | _ => false

/-- A PDU is well formed when its payload length fits one byte (R100). -/
def Pdu.wellFormed (p : Pdu) : Bool :=
  decide (p.payload.length ≤ Config.maxPayload)

/-- An SDU is well formed when its sync field is `SYNC` and its PDU is well formed (R101). -/
def Sdu.wellFormed (f : Sdu) : Bool :=
  decide (f.sync = Config.sync) && f.pdu.wellFormed

/-- A number is a cycle word when it fits twelve bits (R76, R87). -/
def isCycleWord (w : Nat) : Bool :=
  decide (w < 2 ^ 12)

end Sys2Proof
end

