-- ==== Sys2Proof/Decode.lean ====
section
/-! DEFINITION. The cycle input word: its fields (R76), the events it stands for (R77, R78, R79), and the encoder. -/

namespace Sys2Proof

/-- `rst` = `W[11]` (R76). -/
def rstBit (w : CycleWord) : Bool := w.getLsbD 11

/-- `tick` = `W[10]` (R76). -/
def tickBit (w : CycleWord) : Bool := w.getLsbD 10

/-- `op` = `W[9:8]` (R76). -/
def opField (w : CycleWord) : OpCode := w.extractLsb' 8 2

/-- `din` = `W[7:0]`, taken as it stands (R76, R80). -/
def dinField (w : CycleWord) : Byte := w.extractLsb' 0 8

/-- The operation the field `op` names (R77). `din` is used by FEED only. -/
def decodeOp (w : CycleWord) : Instr :=
  if opField w = 0b00#2 then .nop
  else if opField w = 0b01#2 then .feed (dinField w)
  else if opField w = 0b10#2 then .collect
  else .reset

/-- The events of a cycle word, in their order (R78): RST alone overrides everything; otherwise a TICK, if there is
one, comes before the operation. Total: every word has a meaning (R87). -/
def decodeEvents (w : CycleWord) : List Instr :=
  if rstBit w then [.rst]
  else if tickBit w then [.tick, decodeOp w]
  else [decodeOp w]

/-- The row of the opcode table a word is read as when one name is wanted (R79, R89): RST when its bit is set; TICK for
a tick with no operation (`op` = NOP); the operation otherwise. All the events of the word are `decodeEvents`
(assumption 7). -/
def decode (w : CycleWord) : Instr :=
  if rstBit w then .rst
  else if tickBit w && decide (opField w = 0b00#2) then .tick
  else decodeOp w

/-- A number as a cycle word, rejected by name when it needs more than twelve bits (R76). -/
def cycleWordOfNat (w : Nat) : Except DecodeError CycleWord :=
  if isCycleWord w then .ok (BitVec.ofNat 12 w) else .error (.wordTooWide w)

/-- A cycle word put together from its four fields (R76). -/
def cycleWord (rst tick : Bool) (op : OpCode) (din : Byte) : CycleWord :=
  (BitVec.ofBool rst).setWidth 12 <<< 11 ||| (BitVec.ofBool tick).setWidth 12 <<< 10 |||
    op.setWidth 12 <<< 8 ||| din.setWidth 12

/-- The operation code of an event (R77); RST and TICK are bits of their own and leave `op` at NOP's 0b00 (R89). -/
def opCode : Instr → OpCode
  | .rst => 0b00#2
  | .tick => 0b00#2
  | .nop => 0b00#2
  | .feed _ => 0b01#2
  | .collect => 0b10#2
  | .reset => 0b11#2

/-- The operand byte of an event: FEED's, and 0 where `din` is ignored (R76, R89). -/
def dinOf : Instr → Byte
  | .rst => 0x00#8
  | .tick => 0x00#8
  | .nop => 0x00#8
  | .feed b => b
  | .collect => 0x00#8
  | .reset => 0x00#8

/-- The word of one event with no tick in the cycle (R89). -/
def encode (i : Instr) : CycleWord :=
  cycleWord (decide (i = .rst)) (decide (i = .tick)) (opCode i) (dinOf i)

/-- The word of the events of one cycle (R78), where one word can carry them. -/
def encodeEvents : List Instr → Option CycleWord
  | [] => none
  | [.rst] => some (encode .rst)
  | [i] => if i.isOperation then some (cycleWord false false (opCode i) (dinOf i)) else none
  | [.tick, i] => if i.isOperation then some (cycleWord false true (opCode i) (dinOf i)) else none
  | _ => none

/-- The instruction the decoder reads from an opcode-table word: the bits above `nbits` are 0, and a number wider than
the cycle word is refused. -/
def decodeTableWord (nbits w : Nat) : Option Instr :=
  match cycleWordOfNat (w % 2 ^ nbits) with
  | .ok word => some (decode word)
  | .error _ => none

end Sys2Proof
end

