-- ==== Sys2Proof/Machine/State.lean ====
section
/-! DEFINITION. The state of the machine: the block's own registers, buffer and watchdog (R20), and beside them the
model's two port records: the cycle words still to come, and the outputs of the last event. Faults and refusals. -/

namespace Sys2Proof.Machine

/-- The seven values of the register `state` (R22). Code 7 is not a state (R45, R86), so there is no eighth. -/
inductive Phase where
  | waitSync
  | waitDst
  | waitCmd
  | waitLen
  | waitData
  | waitChecksum
  | complete
  deriving DecidableEq, Repr

/-- The response of an operation (R88). 0b11 is never produced, so there is no fourth value (U10). -/
inductive Response where
  /-- NONE: NOP, or the word was RST. -/
  | none
  /-- OK: FEED, RESET, COLLECT in COMPLETE. -/
  | ok
  /-- INVALID_STATE: COLLECT in a state other than COMPLETE. -/
  | invalidState
  deriving DecidableEq, Repr

/-- The event pulses `ev[6:0]` (R202), each set for the one cycle of the operation that causes it. -/
structure Pulses where
  timeout : Bool := false
  noiseDrop : Bool := false
  syncFound : Bool := false
  chkFail : Bool := false
  frameOk : Bool := false
  completeDrop : Bool := false
  collectErr : Bool := false
  deriving DecidableEq, Repr

/-- The four error kinds (R200). None is stored. -/
inductive ErrorKind where
  /-- E1, RESYNC_ON_GARBAGE. -/
  | resyncOnGarbage
  /-- E2, CHECKSUM_MISMATCH. -/
  | checksumMismatch
  /-- E3, TIMEOUT_STALL. -/
  | timeoutStall
  /-- E4, COLLECT_BEFORE_COMPLETE. -/
  | collectBeforeComplete
  deriving DecidableEq, Repr

/-- What an operation returns to the driver: FEED a state name (R132), COLLECT an SDU (R150), the others nothing. -/
inductive Ret where
  | nothing
  | phase (p : Phase)
  | sdu (f : Sdu)
  deriving DecidableEq, Repr

/-- The outputs of one event: response (R88), pulses (R202), returned value. They are not state of the block and no
rule reads them (R20, R202); the model keeps those of the last event so that they can be spoken about
(assumption 4). -/
structure Output where
  rsp : Response
  ev : Pulses
  ret : Ret
  deriving DecidableEq, Repr

/-- The outputs of an event that answers nothing: response NONE, no pulse, nothing returned. -/
abbrev Output.idle : Output := ⟨.none, {}, .nothing⟩

/-- The payload buffer's content: pairs of a cell's index and its byte, indices strictly rising. A cell not listed has
no architectural value (R30, R36; assumption 1). -/
abbrev Memory := List Host.Cell

/-- The whole state of one instance of the block (R20). -/
structure Block where
  /-- `state`, the FSM state register (R22, R23). -/
  state : Phase
  /-- `chk`, the checksum accumulator (R24). -/
  chk : Byte
  /-- `dst`, the stored destination (R25). -/
  dst : Byte
  /-- `cmd`, the stored command (R26). -/
  cmd : Byte
  /-- `len`, the declared payload length (R27). -/
  len : Byte
  /-- `cnt`, the number of payload bytes in the buffer (R28). -/
  cnt : Byte
  /-- `buf[0..254]`, the payload buffer (R30). -/
  buf : Memory
  /-- `wd_run`, the watchdog's run bit (R31). -/
  wdRun : Bool
  /-- `wd_cnt`, the watchdog's elapsed ticks (R32). -/
  wdCnt : TickCount
  deriving DecidableEq, Repr

/-- The machine: the block, and the model's two port records. -/
structure State where
  /-- The block's own state (R20). -/
  blk : Block
  /-- The cycle words still to be presented, oldest first: the driver's, the time base's and the hard reset's future,
  not a queue inside the block (R8, R60, R78; assumption 3). -/
  inputs : List CycleWord
  /-- The outputs of the last event (assumption 4). -/
  out : Output
  deriving DecidableEq, Repr

/-- Reasons to stop with a fault: there are none. No error is fatal and no event leaves the block in a state from which
it cannot go on (R201). -/
inductive Fault where
  deriving DecidableEq, Repr

/-- Reasons to have no meaning for an event. -/
inductive Refusal where
  /-- Raised by an arm of `exec` whose instruction has no meaning yet; safe. No arm raises it: every row is modelled. -/
  | notModelled (mnemonic : String)
  deriving DecidableEq, Repr

/-- The block right after RST (R37). -/
abbrev Block.reset : Block where
  state := .waitSync
  chk := 0x00#8
  dst := 0x00#8
  cmd := 0x00#8
  len := 0x00#8
  cnt := 0x00#8
  buf := []
  wdRun := false
  wdCnt := 0#16

/-- The machine right after RST, with nothing presented yet (R37, R230, R232; assumptions 3, 4, 6). -/
def State.reset : State where
  blk := Block.reset
  inputs := []
  out := Output.idle

end Sys2Proof.Machine
end

