-- ==== Sys2Proof/Machine/Flags.lean ====
section
/-! DEFINITION. The codes of states and responses, the event pulses as bits, and the error kinds they stand for.
The block has no condition codes and no stored flag (R35). -/

namespace Sys2Proof.Machine

/-- The 3-bit code of a state (R22, R86). -/
def Phase.code : Phase → BitVec 3
  | .waitSync => 0#3
  | .waitDst => 1#3
  | .waitCmd => 2#3
  | .waitLen => 3#3
  | .waitData => 4#3
  | .waitChecksum => 5#3
  | .complete => 6#3

/-- A mid-frame state: WAIT_DST to WAIT_CHECKSUM (R19). -/
def Phase.midFrame : Phase → Bool
  | .waitSync => false
  | .waitDst => true
  | .waitCmd => true
  | .waitLen => true
  | .waitData => true
  | .waitChecksum => true
  | .complete => false

/-- The 2-bit code of a response (R88). -/
def Response.code : Response → BitVec 2
  | .none => 0b00#2
  | .ok => 0b01#2
  | .invalidState => 0b10#2

/-- No pulse. -/
abbrev Pulses.quiet : Pulses := {}

/-- `ev[6:0]` as bits: bit 0 is `ev.timeout`, bit 6 is `ev.collect_err` (R202). -/
def Pulses.bits (p : Pulses) : BitVec 7 :=
  BitVec.ofBool p.collectErr ++ BitVec.ofBool p.completeDrop ++ BitVec.ofBool p.frameOk ++
    BitVec.ofBool p.chkFail ++ BitVec.ofBool p.syncFound ++ BitVec.ofBool p.noiseDrop ++ BitVec.ofBool p.timeout

/-- How many pulses are set. -/
def Pulses.count (p : Pulses) : Nat :=
  p.timeout.toNat + p.noiseDrop.toNat + p.syncFound.toNat + p.chkFail.toNat + p.frameOk.toNat +
    p.completeDrop.toNat + p.collectErr.toNat

/-- The code of an error kind, E1 to E4 (R200). -/
def ErrorKind.code : ErrorKind → Nat
  | .resyncOnGarbage => 1
  | .checksumMismatch => 2
  | .timeoutStall => 3
  | .collectBeforeComplete => 4

/-- The pulse each error kind sets (R200). -/
def Pulses.reports (p : Pulses) : ErrorKind → Bool
  | .resyncOnGarbage => p.noiseDrop
  | .checksumMismatch => p.chkFail
  | .timeoutStall => p.timeout
  | .collectBeforeComplete => p.collectErr

end Sys2Proof.Machine
end

