-- ==== Sys2Proof/Machine/Operands.lean ====
section
/-! DEFINITION. The one operand, `din` (R80), and the whole arithmetic and every comparison of the block (R15). -/

namespace Sys2Proof.Machine

/-- The operand is the marker: exact equality on all eight bits (R15 (b), R124). -/
def isMarker (b : Byte) : Bool := b == Config.sync

/-- The operand equals the accumulator (R15 (b), R129, R130). -/
def matchesChecksum (k : Block) (b : Byte) : Bool := b == k.chk

/-- The operand, as a length, declares a payload: `b > 0` (R15 (c), R127). -/
def declaresPayload (b : Byte) : Bool := b != 0x00#8

/-- `chk + b` mod 256, no carry kept (R15 (a)). -/
def checksumAdd (k : Block) (b : Byte) : Byte := k.chk + b

/-- `cnt + 1` on eight bits (R15 (d)); it never wraps where a run increments it (R41; assumption 2). -/
def countNext (k : Block) : Byte := k.cnt + 1#8

/-- `cnt = len` on eight bits, for a count given (R15 (e), R128). -/
def lengthReached (k : Block) (count : Byte) : Bool := count == k.len

/-- The saturating increment of the watchdog count (R15 (f)). -/
def tickNext (n : TickCount) : TickCount := if n < Config.wdMax then n + 1#16 else n

/-- `wd_cnt > TIMEOUT_TICKS`, unsigned and strict (R10, R15 (g)). -/
def exceedsTimeout (n : TickCount) : Bool := Config.timeoutTicks.ult n

end Sys2Proof.Machine
end

