-- ==== Sys2Proof/Machine/Ops.lean ====
section
/-! DEFINITION. The named operations over the payload buffer, the registers, the watchdog and the ports. -/

namespace Sys2Proof.Machine

/-! ## The payload buffer -/

/-- The canonical form: cell indices strictly rising and inside the buffer (R50). An unlisted cell reads as no value, so
no entry can equal it. -/
def Memory.wf : Memory → Bool
  | [] => true
  | [c] => decide (c.1 < Config.bufDepth)
  | c :: d :: m => decide (c.1 < d.1) && Memory.wf (d :: m)

/-- The byte of a cell, where the cell has an architectural value (R30). -/
def Memory.read : Memory → Nat → Option Byte
  | [], _ => none
  | c :: m, i => if i = c.1 then some c.2 else Memory.read m i

/-- The list with the byte of one cell set, kept in canonical form. -/
def Memory.insert : Memory → Nat → Byte → Memory
  | [], i, v => [(i, v)]
  | c :: m, i, v =>
    if i < c.1 then (i, v) :: c :: m
    else if i = c.1 then (i, v) :: m
    else c :: Memory.insert m i v

/-- `MemWrite(i, 1, v)` (R51). There is no cell past index 254 and no fault for one: nothing is written there
(assumption 2; no run reaches it). -/
def memWrite (m : Memory) (i : Nat) (v : Byte) : Memory :=
  if i < Config.bufDepth then Memory.insert m i v else m

/-- `MemRead(i, 1)` (R52). A cell without an architectural value reads as a free value (U2; assumption 1). -/
def memRead (m : Memory) (i : Nat) : Byte :=
  match Memory.read m i with
  | some v => v
  | none => Config.freeCell i

/-- The first `n` payload bytes, `[MemRead(0,1), ..., MemRead(n-1,1)]` (R150). -/
def memBytes (m : Memory) (n : Nat) : List Byte := (List.range n).map (memRead m)

/-- "Clear payload buffer": `cnt <- 0`, after which no cell has an architectural value (R28, R30; assumption 1). -/
def bufClear (k : Block) : Block := { k with cnt := 0x00#8, buf := [] }

/-- "append byte to payload buffer": `MemWrite(cnt, 1, b)`, then `cnt <- cnt + 1` (R51, R128). -/
def bufAppend (k : Block) (b : Byte) : Block :=
  { k with buf := memWrite k.buf k.cnt.toNat b, cnt := countNext k }

/-- The payload received so far: the first `cnt` cells (R30). -/
def Block.received (k : Block) : List Byte := memBytes k.buf k.cnt.toNat

/-! ## The watchdog -/

/-- WD_START (R180). -/
def wdStart (k : Block) : Block := { k with wdCnt := 0#16, wdRun := true }

/-- WD_STOP (R181). -/
def wdStop (k : Block) : Block := { k with wdRun := false }

/-- WD_RESET, which is WD_STOP exactly (R182). -/
def wdReset (k : Block) : Block := wdStop k

/-- WD_ELAPSED, read whether the watchdog runs or not (R183). -/
def wdElapsed (k : Block) : TickCount := k.wdCnt

/-- What one TICK does to the watchdog (R184): counted while running, saturating. -/
def wdTick (k : Block) : Block := if k.wdRun then { k with wdCnt := tickNext k.wdCnt } else k

/-- The timeout test of FEED step 1 (R122). -/
def timedOut (k : Block) : Bool := exceedsTimeout (wdElapsed k)

/-! ## Clearing, resynchronising, refusing -/

/-- AsmClear (R121). The watchdog is not touched. -/
def asmClear (k : Block) : Block :=
  bufClear { k with state := .waitSync, chk := 0x00#8, dst := 0x00#8, cmd := 0x00#8, len := 0x00#8 }

/-- Entering resynchronisation, on a checksum mismatch and on a timeout: AsmClear, nothing is saved, there is no vector
and no handler (R209). There is no operation that returns from it: nothing was saved (R210). -/
def resynchronise (k : Block) : Block := asmClear k

/-- What RESET and RST both leave (R155, R230, R231): AsmClear, and the watchdog stopped at 0. -/
def resetBlock (k : Block) : Block := { asmClear k with wdRun := false, wdCnt := 0#16 }

/-- `raise InvalidState(state)`, the one surfaced exception (R151, R204): the response is INVALID_STATE, no SDU is
returned, `ev.collect_err` is set, every register keeps its value and control goes nowhere. -/
def raiseInvalidState (s : State) : State :=
  { s with out := ⟨.invalidState, { collectErr := true }, .nothing⟩ }

/-! ## The cycle input -/

/-- The word of an idle cycle, 0x000 (R79). -/
def idleWord : CycleWord := 0x000#12

/-- The word of the present cycle, and the machine with it taken from the inputs. When nothing is presented the cycle is
idle (R158; assumption 3). -/
def takeWord (s : State) : CycleWord × State :=
  match s.inputs with
  | [] => (idleWord, s)
  | w :: rest => (w, { s with inputs := rest })

/-- Present a word before everything else still to be presented. -/
def presentWord (s : State) (w : CycleWord) : State := { s with inputs := w :: s.inputs }

end Sys2Proof.Machine
end

