-- ==== Sys2Proof/Machine/Assembler.lean ====
section
/-! DEFINITION. The Assembler's other operations: COLLECT (R150 to R153), RESET (R155), NOP (R158). -/

namespace Sys2Proof.Machine

/-- The SDU that COLLECT builds from the stored fields, the first `len` cells of the buffer and `SYNC` (R150). -/
def storedSdu (k : Block) : Sdu := mkSdu k.dst k.cmd (memBytes k.buf k.len.toNat)

/-- COLLECT: the SDU in COMPLETE (R150), the exception InvalidState in any other state (R151). No register changes in
either case (R152). -/
def execCollect (s : State) : Host.Outcome State Fault Refusal :=
  if s.blk.state = .complete then .next { s with out := ⟨.ok, {}, .sdu (storedSdu s.blk)⟩ }
  else .next (raiseInvalidState s)

/-- RESET, in any state (R155). -/
def execReset (s : State) : Host.Outcome State Fault Refusal :=
  .next { s with blk := resetBlock s.blk, out := ⟨.ok, {}, .nothing⟩ }

/-- NOP changes no register, sets no pulse and answers NONE (R158). -/
def execNop (s : State) : Host.Outcome State Fault Refusal :=
  .next { s with out := Output.idle }

end Sys2Proof.Machine
end

