-- ==== Sys2Proof/Machine/Feed.lean ====
section
/-! DEFINITION. FEED (R120 to R133): one function per state, the three steps, and the meaning of the event. Each function
gives the block after and the pulses set. -/

namespace Sys2Proof.Machine

/-- FEED in WAIT_SYNC (R124). The accumulator is seeded, not added to. -/
def feedWaitSync (b : Byte) (k : Block) : Block × Pulses :=
  if isMarker b then ({ k with chk := Config.sync, state := .waitDst }, { syncFound := true })
  else (k, { noiseDrop := true })

/-- FEED in WAIT_DST (R125). -/
def feedWaitDst (b : Byte) (k : Block) : Block × Pulses :=
  ({ k with dst := b, chk := checksumAdd k b, state := .waitCmd }, {})

/-- FEED in WAIT_CMD (R126). -/
def feedWaitCmd (b : Byte) (k : Block) : Block × Pulses :=
  ({ k with cmd := b, chk := checksumAdd k b, state := .waitLen }, {})

/-- FEED in WAIT_LEN (R127). -/
def feedWaitLen (b : Byte) (k : Block) : Block × Pulses :=
  (bufClear { k with
    len := b, chk := checksumAdd k b,
    state := if declaresPayload b then .waitData else .waitChecksum }, {})

/-- FEED in WAIT_DATA (R128): the comparison with the length uses the new count. -/
def feedWaitData (b : Byte) (k : Block) : Block × Pulses :=
  (bufAppend { k with
    chk := checksumAdd k b,
    state := if lengthReached k (countNext k) then .waitChecksum else .waitData } b, {})

/-- FEED in WAIT_CHECKSUM, equal (R129) and unequal (R130). -/
def feedWaitChecksum (b : Byte) (k : Block) : Block × Pulses :=
  if matchesChecksum k b then (wdStop { k with state := .complete }, { frameOk := true })
  else (resynchronise k, { chkFail := true })

/-- FEED in COMPLETE: the byte is dropped and no register changes (R131). -/
def feedComplete (k : Block) : Block × Pulses := (k, { completeDrop := true })

/-- Step 3 of FEED: dispatch on the state (R120). -/
def feedDispatch (b : Byte) (k : Block) : Block × Pulses :=
  match k.state with
  | .waitSync => feedWaitSync b k
  | .waitDst => feedWaitDst b k
  | .waitCmd => feedWaitCmd b k
  | .waitLen => feedWaitLen b k
  | .waitData => feedWaitData b k
  | .waitChecksum => feedWaitChecksum b k
  | .complete => feedComplete k

/-- FEED outside COMPLETE: the timeout test (R122), the watchdog restart (R123), the dispatch. -/
def feedRunning (b : Byte) (k : Block) : Block × Pulses :=
  if timedOut k then
    ((feedDispatch b (wdStart (resynchronise k))).1,
      { (feedDispatch b (wdStart (resynchronise k))).2 with timeout := true })
  else feedDispatch b (wdStart k)

/-- FEED on the block, the whole of it (R120): the COMPLETE test comes before the timeout test. -/
def feedBlock (b : Byte) (k : Block) : Block × Pulses :=
  if k.state = .complete then feedComplete k else feedRunning b k

/-- FEED(b): the response is always OK, and the state after is returned (R120, R132). -/
def execFeed (b : Byte) (s : State) : Host.Outcome State Fault Refusal :=
  .next { s with
    blk := (feedBlock b s.blk).1
    out := ⟨.ok, (feedBlock b s.blk).2, .phase (feedBlock b s.blk).1.state⟩ }

end Sys2Proof.Machine
end

