-- ==== Sys2Proof/Machine/TimeBase.lean ====
section
/-! DEFINITION. The two events that are no operation of the driver: TICK (R184) and RST (R230). -/

namespace Sys2Proof.Machine

/-- TICK: nothing but the watchdog count changes; no pulse, no response (R184, R203). -/
def execTick (s : State) : Host.Outcome State Fault Refusal :=
  .next { s with blk := wdTick s.blk, out := Output.idle }

/-- RST: every register at its reset value; no pulse, response NONE (R230). -/
def execRst (s : State) : Host.Outcome State Fault Refusal :=
  .next { s with blk := resetBlock s.blk, out := Output.idle }

end Sys2Proof.Machine
end

