-- ==== Sys2Proof/Machine/Dispatch.lean ====
section
/-! DEFINITION. The meaning of every event: one arm per constructor. -/

namespace Sys2Proof.Machine

-- One event, one step of the block (R8): the outcome is always a next state (R201).
def exec (i : Instr) (s : State) : Host.Outcome State Fault Refusal :=
  match i with
  | .rst => Sys2Proof.Machine.execRst s
  | .tick => Sys2Proof.Machine.execTick s
  | .nop => Sys2Proof.Machine.execNop s
  | .feed b => Sys2Proof.Machine.execFeed b s
  | .collect => Sys2Proof.Machine.execCollect s
  | .reset => Sys2Proof.Machine.execReset s

end Sys2Proof.Machine
end

