-- ==== Sys2Proof/Machine/Cycle.lean ====
section
/-! DEFINITION. Sequences of events: the one or two events of a cycle word (R78), longer runs (R8, R60), and the SDUs
that the COLLECTs of a run hand out (R166). -/

namespace Sys2Proof.Machine

/-- Run events in order, each on the state the one before left (R60); stops at a fault or refusal. -/
def runEvents : List Instr → State → Host.Outcome State Fault Refusal
  | [], s => .next s
  | i :: es, s =>
    match exec i s with
    | .next t => runEvents es t
    | .fault r => .fault r
    | .refused r => .refused r

/-- The SDU an event's outputs hand out, if any (R150). -/
def Output.handedOut (o : Output) : Option Sdu :=
  match o.ret with
  | .nothing => none
  | .phase _ => none
  | .sdu f => some f

/-- The SDUs handed out along a run of events, in order (R166, R167). -/
def collected : List Instr → State → List Sdu
  | [], _ => []
  | i :: es, s =>
    match exec i s with
    | .next t => t.out.handedOut.toList ++ collected es t
    | .fault _ => []
    | .refused _ => []

end Sys2Proof.Machine
end

