-- ==== Sys2Proof/Machine/Step.lean ====
section
/-! DEFINITION. One clock cycle: take the word of the cycle and run its events (R78). -/

namespace Sys2Proof.Machine

/-- One cycle: the word presented (or the idle word) is taken, and its one or two events run in order (R78, R247). -/
def step (s : State) : Host.Outcome State Fault Refusal :=
  runEvents (decodeEvents (takeWord s).1) (takeWord s).2

/-- The machine with a word presented as the next cycle's, the bits above `nbits` zero. Nothing else changes. -/
def State.withFetchWord (s : State) (nbits w : Nat) : State :=
  presentWord s (BitVec.ofNat 12 (w % 2 ^ nbits))

end Sys2Proof.Machine
end

