-- ==== Sys2Proof/Machine/FrameModel.lean ====
section
/-! DEFINITION. The Frame Model (R100 to R107): checksum, wire frame, SDU equality. Pure functions, no state. -/

namespace Sys2Proof

namespace Machine

/-- `sum(s)`: the sum of the bytes as a natural number, not reduced (R13). -/
def byteSum : List Byte → Nat
  | [] => 0
  | b :: s => b.toNat + byteSum s

/-- CHECKSUM (R102): one sum of all fields, reduced mod 256 once. -/
def checksum (dst cmd : Byte) (payload : List Byte) : Byte :=
  BitVec.ofNat 8 (Config.sync.toNat + dst.toNat + cmd.toNat + payload.length + byteSum payload)

/-- The bytes of the wire frame (R70, R104): sync, destination, command, length, payload, checksum. -/
def frameBytes (dst cmd : Byte) (payload : List Byte) : List Byte :=
  [Config.sync, dst, cmd, BitVec.ofNat 8 payload.length] ++ payload ++ [checksum dst cmd payload]

/-- ENCODE (R104), refused for a payload longer than 255 bytes (R105). -/
def encodeFrame (dst cmd : Byte) (payload : List Byte) : Option (List Byte) :=
  if payload.length ≤ Config.maxPayload then some (frameBytes dst cmd payload) else none

end Machine

/-- `SDU.content` (R106). -/
def Sdu.content (f : Sdu) : Option (List Byte) := Machine.encodeFrame f.dst f.pdu.cmd f.pdu.payload

/-- Equality of SDUs: equality of sync, destination and content (R107). -/
def Sdu.equal (f g : Sdu) : Bool :=
  decide (f.sync = g.sync) && decide (f.dst = g.dst) && decide (f.content = g.content)

end Sys2Proof
end

