-- ==== Sys2Proof/Machine/Analyzer.lean ====
section
/-! DEFINITION. The Stream Analyzer (R165 to R171), which adds no state, and the pseudo-instructions (R90): each is given
as a list of the events it expands to. ABYTE and ANALYZE are also given as functions of the block. -/

namespace Sys2Proof.Machine

/-- ABYTE(b) on the block: FEED, and when that leaves COMPLETE also COLLECT, emit and RESET (R165). The block after, and
the SDU emitted, if any (R166). -/
def abyte (b : Byte) (k : Block) : Block × Option Sdu :=
  if (feedBlock b k).1.state = .complete then
    (resetBlock (feedBlock b k).1, some (storedSdu (feedBlock b k).1))
  else ((feedBlock b k).1, none)

/-- ANALYZE(chunk) on the block: the block after, and the emitted SDUs in order (R167). No tick inside (R168). -/
def analyze : List Byte → Block → Block × List Sdu
  | [], k => (k, [])
  | b :: c, k =>
    ((analyze c (abyte b k).1).1, (abyte b k).2.toList ++ (analyze c (abyte b k).1).2)

/-- `TICK*n`, `WAIT n` (R90). -/
def ticks (n : Nat) : List Instr := List.replicate n .tick

/-- `FEEDS [b0 ... bk]` (R90). -/
def feeds (c : List Byte) : List Instr := c.map .feed

/-- The events `ABYTE` expands to: one, or three when the FEED completes a frame (R90, R165). -/
def abyteEvents (b : Byte) (k : Block) : List Instr :=
  if (feedBlock b k).1.state = .complete then [.feed b, .collect, .reset] else [.feed b]

/-- The events `ANALYZE` expands to (R90, R167). -/
def analyzeEvents : List Byte → Block → List Instr
  | [], _ => []
  | b :: c, k => abyteEvents b k ++ analyzeEvents c (abyte b k).1

/-- Bytes fed one by one with events before each: the delivery of a frame in time (R108, R168). -/
def spaced : List (List Instr × Byte) → List Instr
  | [] => []
  | (gap, b) :: rest => gap ++ .feed b :: spaced rest

/-- The bytes that the FEEDs of a run present, in order. -/
def fedBytes : List Instr → List Byte
  | [] => []
  | .feed b :: es => b :: fedBytes es
  | .rst :: es => fedBytes es
  | .tick :: es => fedBytes es
  | .nop :: es => fedBytes es
  | .collect :: es => fedBytes es
  | .reset :: es => fedBytes es

end Sys2Proof.Machine
end

