-- ==== Sys2Proof/Machine/Ports.lean ====
section
/-! DEFINITION. The outputs that are functions of the state (R34, R53, R205), and the readout port. -/

namespace Sys2Proof.Machine

/-- `frame_ready`: 1 exactly in COMPLETE (R34, R205). -/
def frameReady (k : Block) : Bool := k.state == .complete

/-- The gate of the data outputs: 0 outside COMPLETE (R21, R34). -/
def gated (k : Block) (v : Byte) : Byte := if frameReady k then v else 0x00#8

/-- `o_state`, always live (R34). -/
def oState (k : Block) : BitVec 3 := k.state.code

/-- `o_sync` (R34). -/
def oSync (k : Block) : Byte := gated k Config.sync

/-- `o_dst` (R34). -/
def oDst (k : Block) : Byte := gated k k.dst

/-- `o_cmd` (R34). -/
def oCmd (k : Block) : Byte := gated k k.cmd

/-- `o_len` (R34). -/
def oLen (k : Block) : Byte := gated k k.len

/-- `o_chk` (R34). -/
def oChk (k : Block) : Byte := gated k k.chk

/-- `rd_data` for an index driven on `rd_idx` (R34, R53): combinational, without side effect. -/
def rdData (k : Block) (rdIdx : Byte) : Byte :=
  if rdIdx < k.cnt then gated k (memRead k.buf rdIdx.toNat) else 0x00#8

end Sys2Proof.Machine
end

