-- ==== Sys2Proof/Safety.lean ====
section
/-! DEFINITION. What holds of every reachable state (R40 to R46, R48, and the buffer's canonical form), and what
reachable means. -/

namespace Sys2Proof.Machine

/-- R40: in WAIT_SYNC everything is clear. -/
abbrev Block.clearInWaitSync (k : Block) : Prop :=
  k.state = .waitSync →
    k.chk = 0x00#8 ∧ k.dst = 0x00#8 ∧ k.cmd = 0x00#8 ∧ k.len = 0x00#8 ∧ k.cnt = 0x00#8

/-- R41: how `cnt` and `len` stand to each other, state by state. -/
abbrev Block.countInBounds (k : Block) : Prop :=
  (k.state = .waitData → 1 ≤ k.len.toNat ∧ k.cnt.toNat < k.len.toNat) ∧
  (k.state = .waitChecksum ∨ k.state = .complete → k.cnt = k.len) ∧
  (k.state = .waitDst ∨ k.state = .waitCmd ∨ k.state = .waitLen → k.cnt = 0x00#8 ∧ k.len = 0x00#8)

/-- `SYNC + dst + cmd + len` and the bytes received, as one natural number (R42). -/
def Block.sumSoFar (k : Block) : Nat :=
  Config.sync.toNat + k.dst.toNat + k.cmd.toNat + k.len.toNat + byteSum k.received

/-- R42: the accumulator, state by state, all sums mod 256. -/
abbrev Block.accumulatorRight (k : Block) : Prop :=
  (k.state = .waitDst → k.chk = Config.sync ∧ k.dst = 0x00#8 ∧ k.cmd = 0x00#8) ∧
  (k.state = .waitCmd → k.chk = Config.sync + k.dst ∧ k.cmd = 0x00#8) ∧
  (k.state = .waitLen → k.chk = Config.sync + k.dst + k.cmd) ∧
  (k.state = .waitData → k.chk = BitVec.ofNat 8 k.sumSoFar) ∧
  (k.state = .waitChecksum ∨ k.state = .complete →
    k.chk = BitVec.ofNat 8 k.sumSoFar ∧ k.chk = checksum k.dst k.cmd (memBytes k.buf k.len.toNat))

/-- R43, R44, R48: the watchdog runs whenever a partial frame is held, is stopped at 0 in COMPLETE, and reads 0
whenever it is stopped. -/
abbrev Block.watchdogRight (k : Block) : Prop :=
  (k.state.midFrame = true → k.wdRun = true) ∧
  (k.state = .complete → k.wdRun = false ∧ k.wdCnt = 0#16) ∧
  (k.wdRun = false → k.wdCnt = 0#16)

/-- The buffer lists exactly the cells 0 to `cnt` - 1, in order (R30, R51, R52; assumption 1). -/
abbrev Block.bufferRight (k : Block) : Prop :=
  k.buf.map Prod.fst = List.range k.cnt.toNat ∧ Memory.wf k.buf = true

/-- The invariants of every reachable state (R40 to R44, R48). R45 and R46 hold by the types: `Phase` has no eighth
value, `cnt` has eight bits and `wd_cnt` sixteen. -/
structure Block.Inv (k : Block) : Prop where
  clearInWaitSync : k.clearInWaitSync
  countInBounds : k.countInBounds
  accumulatorRight : k.accumulatorRight
  watchdogRight : k.watchdogRight
  bufferRight : k.bufferRight

/-- The invariant of a machine state is that of its block; the port records are unconstrained. -/
abbrev State.Inv (s : State) : Prop := s.blk.Inv

/-- A state some run of events reaches from the state after RST, whatever words are still to be presented (R8). -/
def Reachable (s : State) : Prop :=
  ∃ (inputs : List CycleWord) (es : List Instr), runEvents es { State.reset with inputs := inputs } = .next s

/-- Time and the refused or empty operations only: no FEED, RESET or RST. What may happen between two bytes without
ending a frame (R108). -/
def passing : Instr → Bool
  | .rst => false
  | .tick => true
  | .nop => true
  | .feed _ => false
  | .collect => true
  | .reset => false

/-- How many TICKs a run of events holds. -/
def tickCount (es : List Instr) : Nat := es.count .tick

/-- A gap between two bytes that times nothing out: passing events with at most `TIMEOUT_TICKS` ticks (R10, R108). -/
def shortGap (es : List Instr) : Bool :=
  es.all passing && decide (tickCount es ≤ Config.timeoutTicks.toNat)

end Sys2Proof.Machine
end

