-- ==== Sys2Proof/Certificates/Slice0/Obligations.lean ====
section
/-! DEFINITION. The statements for the provers. Each docstring names the rules of the spec it formalises. -/

namespace Sys2Proof.Machine

/-- The block with its watchdog restarted: what step 2 of a FEED outside COMPLETE does (R123). -/
abbrev restarted (k : Block) : Block := { k with wdRun := true, wdCnt := 0#16 }

/-- "all cleared; watchdog restarted" of the transition table (R133). -/
abbrev clearedRestarted : Block := { Block.reset with wdRun := true, wdCnt := 0#16 }

/-- The rows of the transition table of FEED (R133), as a relation between the byte, the block before and the block
after. T is `TIMEOUT_TICKS < wd_cnt` at the start of the operation. -/
inductive FeedRow (b : Byte) (k : Block) : Block → Prop where
  | timeoutMarker : k.state ≠ .complete → Config.timeoutTicks.toNat < k.wdCnt.toNat → b = Config.sync →
      FeedRow b k { clearedRestarted with chk := Config.sync, state := .waitDst }
  | timeoutNoise : k.state ≠ .complete → Config.timeoutTicks.toNat < k.wdCnt.toNat → b ≠ Config.sync →
      FeedRow b k clearedRestarted
  | noise : k.state = .waitSync → k.wdCnt.toNat ≤ Config.timeoutTicks.toNat → b ≠ Config.sync →
      FeedRow b k (restarted k)
  | marker : k.state = .waitSync → k.wdCnt.toNat ≤ Config.timeoutTicks.toNat → b = Config.sync →
      FeedRow b k (restarted { k with chk := Config.sync, state := .waitDst })
  | destination : k.state = .waitDst → k.wdCnt.toNat ≤ Config.timeoutTicks.toNat →
      FeedRow b k (restarted { k with dst := b, chk := k.chk + b, state := .waitCmd })
  | command : k.state = .waitCmd → k.wdCnt.toNat ≤ Config.timeoutTicks.toNat →
      FeedRow b k (restarted { k with cmd := b, chk := k.chk + b, state := .waitLen })
  | lengthPositive : k.state = .waitLen → k.wdCnt.toNat ≤ Config.timeoutTicks.toNat → 0 < b.toNat →
      FeedRow b k (restarted { k with len := b, chk := k.chk + b, cnt := 0#8, buf := [], state := .waitData })
  | lengthZero : k.state = .waitLen → k.wdCnt.toNat ≤ Config.timeoutTicks.toNat → b.toNat = 0 →
      FeedRow b k (restarted { k with len := 0#8, chk := k.chk, cnt := 0#8, buf := [], state := .waitChecksum })
  | dataMore : k.state = .waitData → k.wdCnt.toNat ≤ Config.timeoutTicks.toNat → k.cnt.toNat + 1 < k.len.toNat →
      FeedRow b k (restarted { k with
        buf := memWrite k.buf k.cnt.toNat b, chk := k.chk + b, cnt := k.cnt + 1#8, state := .waitData })
  | dataLast : k.state = .waitData → k.wdCnt.toNat ≤ Config.timeoutTicks.toNat → k.cnt.toNat + 1 = k.len.toNat →
      FeedRow b k (restarted { k with
        buf := memWrite k.buf k.cnt.toNat b, chk := k.chk + b, cnt := k.cnt + 1#8, state := .waitChecksum })
  | checksumMatch : k.state = .waitChecksum → k.wdCnt.toNat ≤ Config.timeoutTicks.toNat → b = k.chk →
      FeedRow b k { k with wdRun := false, wdCnt := 0#16, state := .complete }
  | checksumMismatch : k.state = .waitChecksum → k.wdCnt.toNat ≤ Config.timeoutTicks.toNat → b ≠ k.chk →
      FeedRow b k clearedRestarted
  | hold : k.state = .complete → FeedRow b k k

end Sys2Proof.Machine

open Sys2Proof Sys2Proof.Machine

/-! ## Reset, RST, RESET, NOP, TICK -/

/-- 10_state.md section 8 (R37, R38): every register of the state after reset at its table value; no cell of the buffer
has a value (the model's form of "unspecified", assumption 1). -/
def Obligations.ResetStateHoldsTableValues : Prop :=
  State.reset.blk.state = .waitSync ∧ State.reset.blk.chk = 0#8 ∧ State.reset.blk.dst = 0#8 ∧
  State.reset.blk.cmd = 0#8 ∧ State.reset.blk.len = 0#8 ∧ State.reset.blk.cnt = 0#8 ∧
  (∀ i, Memory.read State.reset.blk.buf i = none) ∧
  State.reset.blk.wdRun = false ∧ State.reset.blk.wdCnt = 0#16

/-- 70_reset_and_hazards.md section 1 (R230): RST, from any state, leaves the block in its reset state with response NONE
and no pulse, and overrides `tick` and `op` of its word. The words still to come are the environment's and stay. -/
def Obligations.RstGivesResetStateAndOverrides : Prop :=
  (∀ s : State, exec .rst s = .next { s with blk := State.reset.blk, out := ⟨.none, {}, .nothing⟩ }) ∧
  (∀ (s : State) (w : CycleWord) (rest : List CycleWord), s.inputs = w :: rest → w.getLsbD 11 = true →
    step s = exec .rst { s with inputs := rest })

/-- R155: RESET, from any state, clears all fields, stops the watchdog at 0, answers OK, sets no pulse; the state after
is, register for register, the state after RST. `buf := []` is R121's "the payload becomes []". -/
def Obligations.ResetClearsFromEveryState : Prop :=
  ∀ s : State,
    exec .reset s = .next { s with
      blk := { state := .waitSync, chk := 0#8, dst := 0#8, cmd := 0#8, len := 0#8, cnt := 0#8, buf := [],
               wdRun := false, wdCnt := 0#16 }
      out := ⟨.ok, {}, .nothing⟩ } ∧
    (∀ t u, exec .reset s = .next t → exec .rst s = .next u → t.blk = u.blk)

/-- R156: after RESET, whatever events came before it, every later event gives what it gives to a never-used instance, and
what it gives after RST; the later COLLECTs hand out the same SDUs; RESET twice is RESET once. -/
def Obligations.AfterResetBehavesAsNeverUsed : Prop :=
  ∀ (history : List Instr) (s : State) (e : Instr) (es : List Instr),
    runEvents (history ++ .reset :: e :: es) s = runEvents (e :: es) { State.reset with inputs := s.inputs } ∧
    runEvents (history ++ .rst :: e :: es) s = runEvents (e :: es) { State.reset with inputs := s.inputs } ∧
    collected (.reset :: e :: es) s = collected (e :: es) { State.reset with inputs := s.inputs } ∧
    runEvents (history ++ [.reset, .reset]) s = runEvents (history ++ [.reset]) s

/-- R158: NOP changes no register, sets no pulse, answers NONE; time passes in its cycle only if the tick bit is set. -/
def Obligations.NopOnlyLetsTimePass : Prop :=
  (∀ s : State, exec .nop s = .next { s with out := ⟨.none, {}, .nothing⟩ }) ∧
  (∀ (s : State) (w : CycleWord) (rest : List CycleWord), s.inputs = w :: rest →
    w.getLsbD 11 = false → w.extractLsb' 8 2 = 0b00#2 →
    ∃ t, step s = .next t ∧ t.inputs = rest ∧ t.out = ⟨.none, {}, .nothing⟩ ∧
      (w.getLsbD 10 = false → t.blk = s.blk) ∧
      (w.getLsbD 10 = true → ∃ u, exec .tick { s with inputs := rest } = .next u ∧ t.blk = u.blk))

/-- R184: TICK adds one to `wd_cnt` while the watchdog runs and the count is below 65535, changes no other
register, and sets no pulse. What response TICK leaves is the model's choice (assumption 4) and is not stated. -/
def Obligations.TickCountsOnlyWhileRunning : Prop :=
  ∀ s : State, ∃ t, exec .tick s = .next t ∧
    t.blk = { s.blk with
      wdCnt := if s.blk.wdRun = true ∧ s.blk.wdCnt.toNat < 65535 then s.blk.wdCnt + 1#16 else s.blk.wdCnt } ∧
    t.inputs = s.inputs ∧ t.out.ev = {}

/-- 44_stopwatch.md (R184) and 10_state.md R32: n TICKs of a running watchdog count n, saturating; and the saturated
count stands to the threshold as the unbounded one does. -/
def Obligations.TicksAddUpAndSaturate : Prop :=
  ∀ (n : Nat) (s : State), s.blk.wdRun = true →
    ∃ t, runEvents (ticks n) s = .next t ∧
      t.blk = { s.blk with wdCnt := BitVec.ofNat 16 (min (s.blk.wdCnt.toNat + n) 65535) } ∧
      t.inputs = s.inputs ∧
      (timedOut t.blk = true ↔ 1000 < s.blk.wdCnt.toNat + n)

/-! ## FEED -/

/-- 00_scope.md R10, 41_assembler_feed.md R122, R123: between two FEEDs outside COMPLETE, the second times out exactly
when more than 1000 TICKs lie between them, however many NOPs and refused COLLECTs do. -/
def Obligations.TimeoutIsExactlyMoreThanThousandTicks : Prop :=
  ∀ (s t u v : State) (b c : Byte) (gap : List Instr),
    s.blk.state ≠ .complete → exec (.feed b) s = .next t → t.blk.state ≠ .complete →
    gap.all passing = true → runEvents gap t = .next u → exec (.feed c) u = .next v →
    (v.out.ev.timeout = true ↔ 1000 < tickCount gap)

/-- R122: a FEED outside COMPLETE that finds `wd_cnt` above 1000, running or stopped, first clears every field; the byte
is not dropped but judged in WAIT_SYNC. -/
def Obligations.FeedAfterTimeoutStartsAfresh : Prop :=
  ∀ (s : State) (b : Byte), s.blk.state ≠ .complete → 1000 < s.blk.wdCnt.toNat →
    (b = Config.sync → exec (.feed b) s = .next { s with
      blk := { state := .waitDst, chk := Config.sync, dst := 0#8, cmd := 0#8, len := 0#8, cnt := 0#8, buf := [],
               wdRun := true, wdCnt := 0#16 }
      out := ⟨.ok, { timeout := true, syncFound := true }, .phase .waitDst⟩ }) ∧
    (b ≠ Config.sync → exec (.feed b) s = .next { s with
      blk := { state := .waitSync, chk := 0#8, dst := 0#8, cmd := 0#8, len := 0#8, cnt := 0#8, buf := [],
               wdRun := true, wdCnt := 0#16 }
      out := ⟨.ok, { timeout := true, noiseDrop := true }, .phase .waitSync⟩ })

/-- R124: FEED in WAIT_SYNC: the marker seeds the accumulator and moves on; any other byte is dropped. -/
def Obligations.FeedInWaitSyncLooksForMarker : Prop :=
  ∀ (s : State) (b : Byte), s.blk.state = .waitSync → s.blk.wdCnt.toNat ≤ 1000 →
    (b = Config.sync → exec (.feed b) s = .next { s with
      blk := { s.blk with chk := Config.sync, state := .waitDst, wdRun := true, wdCnt := 0#16 }
      out := ⟨.ok, { syncFound := true }, .phase .waitDst⟩ }) ∧
    (b ≠ Config.sync → exec (.feed b) s = .next { s with
      blk := { s.blk with wdRun := true, wdCnt := 0#16 }
      out := ⟨.ok, { noiseDrop := true }, .phase .waitSync⟩ })

/-- R125: FEED in WAIT_DST stores the destination and adds it to the accumulator mod 256. -/
def Obligations.FeedInWaitDstStoresDestination : Prop :=
  ∀ (s : State) (b : Byte), s.blk.state = .waitDst → s.blk.wdCnt.toNat ≤ 1000 →
    exec (.feed b) s = .next { s with
      blk := { s.blk with
        dst := b, chk := BitVec.ofNat 8 (s.blk.chk.toNat + b.toNat), state := .waitCmd, wdRun := true, wdCnt := 0#16 }
      out := ⟨.ok, {}, .phase .waitCmd⟩ }

/-- R126: FEED in WAIT_CMD stores the command and adds it to the accumulator mod 256. -/
def Obligations.FeedInWaitCmdStoresCommand : Prop :=
  ∀ (s : State) (b : Byte), s.blk.state = .waitCmd → s.blk.wdCnt.toNat ≤ 1000 →
    exec (.feed b) s = .next { s with
      blk := { s.blk with
        cmd := b, chk := BitVec.ofNat 8 (s.blk.chk.toNat + b.toNat), state := .waitLen, wdRun := true, wdCnt := 0#16 }
      out := ⟨.ok, {}, .phase .waitLen⟩ }

/-- R127: FEED in WAIT_LEN stores the length, adds it, clears the payload, and skips WAIT_DATA for length 0.
`buf := []` is the empty payload of R30. -/
def Obligations.FeedInWaitLenStoresLength : Prop :=
  ∀ (s : State) (b : Byte), s.blk.state = .waitLen → s.blk.wdCnt.toNat ≤ 1000 →
    (0 < b.toNat → exec (.feed b) s = .next { s with
      blk := { s.blk with
        len := b, chk := BitVec.ofNat 8 (s.blk.chk.toNat + b.toNat), cnt := 0#8, buf := [], state := .waitData,
        wdRun := true, wdCnt := 0#16 }
      out := ⟨.ok, {}, .phase .waitData⟩ }) ∧
    (b.toNat = 0 → exec (.feed b) s = .next { s with
      blk := { s.blk with
        len := 0#8, chk := s.blk.chk, cnt := 0#8, buf := [], state := .waitChecksum,
        wdRun := true, wdCnt := 0#16 }
      out := ⟨.ok, {}, .phase .waitChecksum⟩ })

/-- R128: FEED in WAIT_DATA writes the byte to cell `cnt`, which is one of the 255 cells, and no
other cell; counts it; adds it; and moves on when the new count is the declared length. Under the invariant, which rules
out a count at or above the length. -/
def Obligations.FeedInWaitDataAppendsByte : Prop :=
  ∀ (s : State) (b : Byte), s.Inv → s.blk.state = .waitData → s.blk.wdCnt.toNat ≤ 1000 →
    ∃ t, exec (.feed b) s = .next t ∧
      t = { s with
        blk := { s.blk with
          buf := t.blk.buf, cnt := t.blk.cnt, state := t.blk.state,
          chk := BitVec.ofNat 8 (s.blk.chk.toNat + b.toNat), wdRun := true, wdCnt := 0#16 }
        out := ⟨.ok, {}, .phase t.blk.state⟩ } ∧
      t.blk.cnt.toNat = s.blk.cnt.toNat + 1 ∧ s.blk.cnt.toNat ≤ 254 ∧
      (t.blk.state = if t.blk.cnt = s.blk.len then .waitChecksum else .waitData) ∧
      Memory.read t.blk.buf s.blk.cnt.toNat = some b ∧
      (∀ a, a ≠ s.blk.cnt.toNat → Memory.read t.blk.buf a = Memory.read s.blk.buf a) ∧
      t.blk.received = s.blk.received ++ [b]

/-- R129: a matching checksum byte completes the frame: COMPLETE, the watchdog stopped at 0, everything else as it was. -/
def Obligations.MatchingChecksumCompletes : Prop :=
  ∀ (s : State) (b : Byte), s.blk.state = .waitChecksum → s.blk.wdCnt.toNat ≤ 1000 → b = s.blk.chk →
    exec (.feed b) s = .next { s with
      blk := { s.blk with state := .complete, wdRun := false, wdCnt := 0#16 }
      out := ⟨.ok, { frameOk := true }, .phase .complete⟩ }

/-- R130: a mismatching byte discards everything; the watchdog runs on from 0; the byte is not looked at again. -/
def Obligations.MismatchingChecksumDiscards : Prop :=
  ∀ (s : State) (b : Byte), s.blk.state = .waitChecksum → s.blk.wdCnt.toNat ≤ 1000 → b ≠ s.blk.chk →
    exec (.feed b) s = .next { s with
      blk := { state := .waitSync, chk := 0#8, dst := 0#8, cmd := 0#8, len := 0#8, cnt := 0#8, buf := [],
               wdRun := true, wdCnt := 0#16 }
      out := ⟨.ok, { chkFail := true }, .phase .waitSync⟩ }

/-- R131: FEED in COMPLETE changes no register, whatever the watchdog count; the byte is dropped. -/
def Obligations.FeedInCompleteIsDropped : Prop :=
  ∀ (s : State) (b : Byte), s.blk.state = .complete →
    exec (.feed b) s = .next { s with out := ⟨.ok, { completeDrop := true }, .phase .complete⟩ }

/-- R131 and 70_reset_and_hazards.md R241: a completed frame stays, register for register, through any bytes, ticks,
NOPs and COLLECTs, until a RESET or RST. -/
def Obligations.CompletedFrameIsHeld : Prop :=
  ∀ (s : State) (es : List Instr), s.Inv → s.blk.state = .complete →
    (∀ e ∈ es, e ≠ .reset ∧ e ≠ .rst) →
    ∃ t, runEvents es s = .next t ∧ t.blk = s.blk ∧ t.inputs = s.inputs

/-- R132: FEED returns the state after it, shown on `o_state` and `frame_ready`; that state is COMPLETE exactly when the
byte was a matching checksum or the state was COMPLETE already. -/
def Obligations.FeedReturnsTheStateAfter : Prop :=
  ∀ (s : State) (b : Byte), ∃ t, exec (.feed b) s = .next t ∧
    t.out.rsp = .ok ∧ t.out.ret = .phase t.blk.state ∧ oState t.blk = t.blk.state.code ∧
    (frameReady t.blk = true ↔ t.blk.state = .complete) ∧
    (t.blk.state = .complete ↔
      s.blk.state = .complete ∨ (s.blk.state = .waitChecksum ∧ s.blk.wdCnt.toNat ≤ 1000 ∧ b = s.blk.chk))

/-- R133: the transition table is the whole of FEED: its rows never overlap, and in every state that meets the invariant
FEED makes the transition of a row; RESET and RST add "any state to WAIT_SYNC"; nothing else moves `state`. -/
def Obligations.FeedFollowsTheTransitionTable : Prop :=
  (∀ (b : Byte) (k k₁ k₂ : Block), FeedRow b k k₁ → FeedRow b k k₂ → k₁ = k₂) ∧
  (∀ (b : Byte) (s : State), s.Inv → ∃ t, exec (.feed b) s = .next t ∧ FeedRow b s.blk t.blk ∧ t.inputs = s.inputs) ∧
  (∀ (i : Instr) (s t : State), exec i s = .next t →
    (i = .reset ∨ i = .rst → t.blk.state = .waitSync) ∧
    (i = .tick ∨ i = .nop ∨ i = .collect → t.blk.state = s.blk.state))

/-- 60_exceptions.md R202, R203, R208: which event sets which pulse, and which pulses can come together. -/
def Obligations.PulsesNameTheirCauses : Prop :=
  (∀ (b : Byte) (s t : State), exec (.feed b) s = .next t →
    (t.out.ev.timeout = true ↔ s.blk.state ≠ .complete ∧ 1000 < s.blk.wdCnt.toNat) ∧
    (t.out.ev.completeDrop = true ↔ s.blk.state = .complete) ∧
    (t.out.ev.frameOk = true ↔ s.blk.state ≠ .complete ∧ t.blk.state = .complete) ∧
    (t.out.ev.chkFail = true ↔ s.blk.state = .waitChecksum ∧ s.blk.wdCnt.toNat ≤ 1000 ∧ b ≠ s.blk.chk) ∧
    (t.out.ev.noiseDrop = true ↔
      b ≠ Config.sync ∧ (s.blk.state = .waitSync ∨ (s.blk.state ≠ .complete ∧ 1000 < s.blk.wdCnt.toNat))) ∧
    (t.out.ev.syncFound = true ↔
      b = Config.sync ∧ (s.blk.state = .waitSync ∨ (s.blk.state ≠ .complete ∧ 1000 < s.blk.wdCnt.toNat))) ∧
    t.out.ev.collectErr = false ∧
    t.out.ev.count ≤ 2 ∧
    (t.out.ev.count = 2 → t.out.ev.timeout = true ∧ (t.out.ev.noiseDrop = true ∨ t.out.ev.syncFound = true))) ∧
  (∀ s t : State, exec .collect s = .next t →
    (t.out.ev.collectErr = true ↔ s.blk.state ≠ .complete) ∧ t.out.ev.count = t.out.ev.collectErr.toNat) ∧
  (∀ (i : Instr) (s t : State), i = .nop ∨ i = .reset ∨ i = .tick ∨ i = .rst → exec i s = .next t →
    t.out.ev.count = 0)

/-- 60_exceptions.md R207, R209: resynchronisation happens inside a FEED only, is entered by a mismatch or a timeout,
and leaves every field clear but for a marker just found. -/
def Obligations.ResynchronisationOnlyInsideFeed : Prop :=
  (∀ (i : Instr) (s t : State), exec i s = .next t →
    t.out.ev.timeout = true ∨ t.out.ev.chkFail = true →
    (∃ b, i = .feed b) ∧ t.blk.wdRun = true ∧ t.blk.wdCnt = 0#16 ∧
    t.blk.dst = 0#8 ∧ t.blk.cmd = 0#8 ∧ t.blk.len = 0#8 ∧ t.blk.cnt = 0#8 ∧ t.blk.buf = [] ∧
    ((t.blk.state = .waitSync ∧ t.blk.chk = 0#8) ∨
      (t.out.ev.timeout = true ∧ t.blk.state = .waitDst ∧ t.blk.chk = Config.sync))) ∧
  (∀ (n : Nat) (s : State), ∃ t, runEvents (ticks n) s = .next t ∧
    t.blk = { s.blk with wdCnt := t.blk.wdCnt } ∧ oState t.blk = oState s.blk)

/-! ## COLLECT -/

/-- R150: COLLECT in COMPLETE answers OK with the SDU of the stored fields, writes nothing, sets no pulse; under the
invariant the SDU's content is a wire frame whose last byte is `chk`. -/
def Obligations.CollectHandsOutTheStoredFrame : Prop :=
  ∀ s : State, s.blk.state = .complete →
    exec .collect s = .next { s with
      out := ⟨.ok, {}, .sdu ⟨Config.sync, s.blk.dst, ⟨s.blk.cmd, (List.range s.blk.len.toNat).map (memRead s.blk.buf)⟩⟩⟩ } ∧
    (s.Inv → ∃ body,
      encodeFrame s.blk.dst s.blk.cmd ((List.range s.blk.len.toNat).map (memRead s.blk.buf)) = some (body ++ [s.blk.chk]))

/-- R151: COLLECT outside COMPLETE is refused with INVALID_STATE, returns no SDU, sets `ev.collect_err`, changes no
register; the data outputs are 0 there, so nothing of a partial frame leaks. -/
def Obligations.CollectOutsideCompleteIsRefused : Prop :=
  ∀ s : State, s.blk.state ≠ .complete →
    exec .collect s = .next { s with out := ⟨.invalidState, { collectErr := true }, .nothing⟩ } ∧
    oSync s.blk = 0#8 ∧ oDst s.blk = 0#8 ∧ oCmd s.blk = 0#8 ∧ oLen s.blk = 0#8 ∧ oChk s.blk = 0#8 ∧
    (∀ i, rdData s.blk i = 0#8)

/-- R152: COLLECT changes no register in any state, and repeating it gives the same answer. -/
def Obligations.CollectChangesNoRegister : Prop :=
  ∀ s : State, ∃ t, exec .collect s = .next t ∧ t.blk = s.blk ∧ t.inputs = s.inputs ∧ exec .collect t = .next t

/-- 10_state.md R34: every output as a function of the state; the data outputs are 0 outside COMPLETE. -/
def Obligations.OutputsAreGatedByComplete : Prop :=
  ∀ (k : Block) (i : Byte),
    oState k = k.state.code ∧ (frameReady k = true ↔ k.state = .complete) ∧
    (k.state = .complete →
      oSync k = Config.sync ∧ oDst k = k.dst ∧ oCmd k = k.cmd ∧ oLen k = k.len ∧ oChk k = k.chk ∧
      (i.toNat < k.cnt.toNat → rdData k i = memRead k.buf i.toNat) ∧ (k.cnt.toNat ≤ i.toNat → rdData k i = 0#8)) ∧
    (k.state ≠ .complete →
      oSync k = 0#8 ∧ oDst k = 0#8 ∧ oCmd k = 0#8 ∧ oLen k = 0#8 ∧ oChk k = 0#8 ∧ rdData k i = 0#8)

/-- 42_assembler_collect_reset.md R153, 20_memory.md R52, R53: under the invariant, what COLLECT returns in COMPLETE is what
the outputs show: payload byte k on `rd_data` when `rd_idx` is k, each of them a byte that was written. -/
def Obligations.OutputsShowTheCollectedSdu : Prop :=
  ∀ s t : State, s.Inv → s.blk.state = .complete → exec .collect s = .next t →
    ∃ f : Sdu, t.out.ret = .sdu f ∧ f.sync = oSync s.blk ∧ f.dst = oDst s.blk ∧ f.pdu.cmd = oCmd s.blk ∧
      f.pdu.payload.length = (oLen s.blk).toNat ∧ checksum f.dst f.pdu.cmd f.pdu.payload = oChk s.blk ∧
      (∀ i : Byte, i.toNat < (oLen s.blk).toNat →
        f.pdu.payload[i.toNat]? = some (rdData s.blk i) ∧ Memory.read s.blk.buf i.toNat = some (rdData s.blk i)) ∧
      (∀ i : Byte, (oLen s.blk).toNat ≤ i.toNat → rdData s.blk i = 0#8)

/-! ## Frames: who writes what -/

/-- 10_state.md R20, R21, R23: NOP and COLLECT write nothing of the block, TICK only `wd_cnt`, and no event touches the
words still to come. -/
def Obligations.OnlyListedEventsWrite : Prop :=
  ∀ (i : Instr) (s : State), ∃ t, exec i s = .next t ∧ t.inputs = s.inputs ∧
    (i = .nop ∨ i = .collect → t.blk = s.blk) ∧
    (i = .tick → t.blk = { s.blk with wdCnt := t.blk.wdCnt })

/-- 20_memory.md R50, R51: the only cell any event writes is cell `cnt`, by a FEED in WAIT_DATA that does not time out; any
other change of the buffer is a clear, after which `cnt` is 0 and no cell has a value (assumption 1). -/
def Obligations.OnlyFeedInWaitDataStores : Prop :=
  ∀ (i : Instr) (s t : State), exec i s = .next t →
    (t.blk.buf = [] ∧ t.blk.cnt = 0#8) ∨
    (∃ b, i = .feed b ∧ s.blk.state = .waitData ∧ s.blk.wdCnt.toNat ≤ 1000 ∧
      (s.blk.cnt.toNat ≤ 254 → Memory.read t.blk.buf s.blk.cnt.toNat = some b) ∧
      (∀ a, a ≠ s.blk.cnt.toNat → Memory.read t.blk.buf a = Memory.read s.blk.buf a)) ∨
    (∀ a, Memory.read t.blk.buf a = Memory.read s.blk.buf a)

/-- 60_exceptions.md R202 ("no rule reads them"): no event's effect depends on the outputs of the event before, nor on
the words still to come. -/
def Obligations.NoEventReadsTheOutputs : Prop :=
  ∀ (i : Instr) (s : State) (o : Output) (ws : List CycleWord),
    exec i { s with out := o } = exec i s ∧
    (∀ t, exec i s = .next t → exec i { s with inputs := ws } = .next { t with inputs := ws })

/-! ## Invariants -/

/-- 10_state.md section 9: the invariants hold after reset. -/
def Obligations.InvariantHoldsAtReset : Prop :=
  State.reset.Inv

/-- 10_state.md section 9 (R40 to R46, R48, the buffer's canonical form): every cycle keeps the invariants, from every
state that meets them. -/
def Obligations.EveryStepKeepsTheInvariant : Prop :=
  ∀ s t : State, s.Inv → step s = .next t → t.Inv

/-- 10_state.md section 9: the invariants hold in every state that a run of events reaches. -/
def Obligations.ReachableStatesMeetTheInvariant : Prop :=
  ∀ s : State, Reachable s → s.Inv

/-- R40: in a reachable WAIT_SYNC state the registers are 0, AsmClear changes nothing, and a timeout found there has no
effect on any register. -/
def Obligations.TimeoutInWaitSyncChangesNothing : Prop :=
  ∀ s : State, Reachable s → s.blk.state = .waitSync →
    s.blk.chk = 0#8 ∧ s.blk.dst = 0#8 ∧ s.blk.cmd = 0#8 ∧ s.blk.len = 0#8 ∧ s.blk.cnt = 0#8 ∧
    asmClear s.blk = s.blk ∧
    (∀ (b : Byte) (n : TickCount) (t u : State), exec (.feed b) s = .next t →
      exec (.feed b) { s with blk := { s.blk with wdCnt := n } } = .next u → u.blk = t.blk)

/-- R48: in a reachable state a stopped watchdog reads 0, is not counted by a TICK, and a FEED that finds it stopped never
times out; and only RST, RESET and the FEED that completes a frame stop a running one. -/
def Obligations.StoppedWatchdogReadsZero : Prop :=
  ∀ s : State, Reachable s →
    (s.blk.wdRun = false →
      s.blk.wdCnt = 0#16 ∧ wdElapsed s.blk = 0#16 ∧
      (∀ t, exec .tick s = .next t → t.blk = s.blk) ∧
      (∀ (b : Byte) (t : State), exec (.feed b) s = .next t → t.out.ev.timeout = false)) ∧
    (∀ (i : Instr) (t : State), exec i s = .next t → s.blk.wdRun = true → t.blk.wdRun = false →
      i = .rst ∨ i = .reset ∨ ∃ b, i = .feed b ∧ s.blk.state ≠ .complete ∧ t.blk.state = .complete)

/-! ## The cycle word -/

/-- R78: one word a cycle, finished in it: `rst` alone, else `tick` before the operation, which sees the count after
that tick. -/
def Obligations.CycleRunsRstAloneElseTickFirst : Prop :=
  ∀ (s : State) (w : CycleWord) (rest : List CycleWord), s.inputs = w :: rest →
    (w.getLsbD 11 = true → step s = exec .rst { s with inputs := rest }) ∧
    (w.getLsbD 11 = false → w.getLsbD 10 = false → step s = exec (decodeOp w) { s with inputs := rest }) ∧
    (w.getLsbD 11 = false → w.getLsbD 10 = true →
      ∃ u, exec .tick { s with inputs := rest } = .next u ∧ step s = exec (decodeOp w) u)

/-- A step runs the decoded instruction (30_encoding.md section 2): for the word read as `i`, a step is `exec i` on the
machine with the word taken, after a TICK where the word carries one beside an operation; with nothing presented the
cycle is a NOP (the model's choice, assumption 3; that a tick alone also answers as TICK does rests on assumption 4); and
`withFetchWord` presents exactly that word. -/
def Obligations.StepRunsTheDecodedInstruction : Prop :=
  (∀ (s : State) (w : CycleWord) (rest : List CycleWord) (i : Instr), s.inputs = w :: rest → decode w = i →
    (w.getLsbD 10 = false ∨ i = .tick ∨ i = .rst → step s = exec i { s with inputs := rest }) ∧
    (w.getLsbD 10 = true → i ≠ .tick → i ≠ .rst →
      ∃ u, exec .tick { s with inputs := rest } = .next u ∧ step s = exec i u)) ∧
  (∀ s : State, s.inputs = [] → step s = exec .nop s) ∧
  (∀ (i : Instr) (s : State), step (s.withFetchWord 16 (encode i).toNat) = exec i s)

/-- 30_encoding.md R89 and 20_memory.md R60: presenting the words of a list of events, one a cycle, is running the
events in order. -/
def Obligations.PresentingWordsRunsTheirEvents : Prop :=
  ∀ (es : List Instr) (s : State) (rest : List CycleWord),
    Host.Core.run Sys2Proof.core es.length { s with inputs := es.map encode ++ rest } =
      runEvents es { s with inputs := rest }

/-- 60_exceptions.md R201: no error is fatal: any number of cycles, from any state, answers a next state. -/
def Obligations.NoCycleEverStopsTheMachine : Prop :=
  ∀ (n : Nat) (s : State), ∃ t, Host.Core.run Sys2Proof.core n s = .next t

/-- 30_encoding.md R79, R89: words written out from the encoding table decode to the events they stand for. -/
def Obligations.WrittenWordsDecodeAsTheTableSays : Prop :=
  decodeEvents 0x800#12 = [.rst] ∧ decodeEvents 0xFFF#12 = [.rst] ∧
  decodeEvents 0x400#12 = [.tick, .nop] ∧ decode 0x400#12 = .tick ∧
  decodeEvents 0x000#12 = [.nop] ∧ decodeEvents 0x15A#12 = [.feed 0x5A#8] ∧
  decodeEvents 0x55A#12 = [.tick, .feed 0x5A#8] ∧ decodeEvents 0x1FF#12 = [.feed 0xFF#8] ∧
  decodeEvents 0x200#12 = [.collect] ∧ decodeEvents 0x300#12 = [.reset] ∧ decodeEvents 0x7A5#12 = [.tick, .reset]

/-- R79: a word matches a row of the opcode table exactly when the row's event is among the events of the word; RST
overrides, TICK combines with exactly one operation. -/
def Obligations.EventsOfAWordAreItsTableRows : Prop :=
  ∀ w : CycleWord,
    (Instr.rst ∈ decodeEvents w ↔ w &&& 0x800#12 = 0x800#12) ∧
    (Instr.tick ∈ decodeEvents w ↔ w &&& 0xC00#12 = 0x400#12) ∧
    (Instr.nop ∈ decodeEvents w ↔ w &&& 0xB00#12 = 0x000#12) ∧
    (∀ b : Byte, Instr.feed b ∈ decodeEvents w ↔ w &&& 0xB00#12 = 0x100#12 ∧ b = w.extractLsb' 0 8) ∧
    (Instr.collect ∈ decodeEvents w ↔ w &&& 0xB00#12 = 0x200#12) ∧
    (Instr.reset ∈ decodeEvents w ↔ w &&& 0xB00#12 = 0x300#12) ∧
    cycleWellFormed (decodeEvents w) = true

/-- 30_encoding.md sections 2 and 5: decode and encode agree: every event's word decodes to it, also as a table word;
every event sequence a cycle can carry has a word that decodes to it; and re-encoding what a word decodes to gives a word
of the same meaning whose control bits are the same. -/
def Obligations.DecodeAndEncodeAgree : Prop :=
  (∀ i : Instr, i.wellFormed = true →
    decode (encode i) = i ∧ decodeTableWord 12 (encode i).toNat = some i ∧
    decodeTableWord 16 (encode i).toNat = some i) ∧
  (∀ es : List Instr, cycleWellFormed es = true → ∃ w, encodeEvents es = some w ∧ decodeEvents w = es) ∧
  (∀ w : CycleWord, ∃ w', encodeEvents (decodeEvents w) = some w' ∧ decodeEvents w' = decodeEvents w ∧
    w'.getLsbD 11 = w.getLsbD 11 ∧
    (w.getLsbD 11 = false → w'.getLsbD 10 = w.getLsbD 10 ∧ w'.extractLsb' 8 2 = w.extractLsb' 8 2 ∧
      (w.extractLsb' 8 2 = 0b01#2 → w' = w)))

/-- 30_encoding.md R83, R84, R87 (D25): `din` is ignored outside FEED, and everything but `rst` is ignored with `rst` = 1:
words that agree on the rest step alike. -/
def Obligations.IgnoredBitsAreIgnored : Prop :=
  ∀ (s : State) (w w' : CycleWord) (rest : List CycleWord),
    (w.getLsbD 11 = true ∧ w'.getLsbD 11 = true) ∨
      (w.extractLsb' 8 4 = w'.extractLsb' 8 4 ∧ w.extractLsb' 8 2 ≠ 0b01#2) →
    step { s with inputs := w :: rest } = step { s with inputs := w' :: rest }

/-! ## The Frame Model -/

/-- R103: for a payload a length byte can declare, the checksum is the sum mod 256 of all the bytes of the frame before
it; and it is what `chk` holds in WAIT_CHECKSUM once the marker and those bytes are fed from WAIT_SYNC, `chk` having been
seeded with `SYNC` and each later byte added in wire order, mod 256 at every step. -/
def Obligations.ChecksumIsTheRunningSum : Prop :=
  ∀ (dst cmd : Byte) (payload : List Byte), payload.length ≤ 255 →
    checksum dst cmd payload =
      BitVec.ofNat 8 (byteSum ([Config.sync, dst, cmd, BitVec.ofNat 8 payload.length] ++ payload)) ∧
    checksum dst cmd payload =
      List.foldl (fun acc b => acc + b) Config.sync ([dst, cmd, BitVec.ofNat 8 payload.length] ++ payload) ∧
    (∀ s : State, s.Inv → s.blk.state = .waitSync →
      (∃ t, runEvents (feeds ([Config.sync, dst, cmd, BitVec.ofNat 8 payload.length] ++ payload)) s = .next t ∧
        t.blk.state = .waitChecksum ∧ t.blk.chk = checksum dst cmd payload) ∧
      (∀ fed later, [dst, cmd, BitVec.ofNat 8 payload.length] ++ payload = fed ++ later →
        ∃ t, runEvents (feeds (Config.sync :: fed)) s = .next t ∧
          t.blk.chk = fed.foldl (fun acc b => BitVec.ofNat 8 (acc.toNat + b.toNat)) Config.sync))

/-- R104, R105 (30_encoding.md R70): ENCODE lays out sync, destination, command, length, payload, checksum, 5 + length
bytes, and is refused for a payload longer than 255. -/
def Obligations.EncodeLaysOutTheWireFrame : Prop :=
  ∀ (dst cmd : Byte) (payload : List Byte),
    (255 < payload.length → encodeFrame dst cmd payload = none) ∧
    (payload.length ≤ 255 → ∃ f, encodeFrame dst cmd payload = some f ∧
      f = [Config.sync, dst, cmd, BitVec.ofNat 8 payload.length] ++ payload ++ [checksum dst cmd payload] ∧
      f.length = 5 + payload.length ∧ (∃ l : Byte, f[3]? = some l ∧ l.toNat = payload.length) ∧
      (∀ i, i < payload.length → f[4 + i]? = payload[i]?) ∧
      f[4 + payload.length]? = some (checksum dst cmd payload))

/-- R107: with one `SYNC`, well-formed SDUs are equal by sync, destination and content exactly when their destinations,
commands and payloads are equal. -/
def Obligations.SduEqualityIsEqualityOfFields : Prop :=
  ∀ f g : Sdu, f.wellFormed = true → g.wellFormed = true →
    (f.equal g = true ↔ f.dst = g.dst ∧ f.pdu.cmd = g.pdu.cmd ∧ f.pdu.payload = g.pdu.payload)

/-! ## Whole frames -/

/-- R108: decoding inverts encoding: from the state after reset, the bytes of a frame, with at most 1000 ticks between
any two of them, end in COMPLETE at the last byte and not before, and COLLECT returns the SDU. -/
def Obligations.FedFrameIsCollected : Prop :=
  ∀ (dst cmd : Byte) (payload f : List Byte) (s : State) (delivery : List (List Instr × Byte)),
    encodeFrame dst cmd payload = some f → s.blk = State.reset.blk →
    delivery.map Prod.snd = f →
    (∀ g ∈ delivery.map Prod.fst, g.all passing = true) →
    (∀ g ∈ (delivery.map Prod.fst).tail, shortGap g = true) →
    (∃ t, runEvents (spaced delivery) s = .next t ∧ t.blk.state = .complete ∧
      exec .collect t = .next { t with out := ⟨.ok, {}, .sdu (mkSdu dst cmd payload)⟩ }) ∧
    (∀ before after, spaced delivery = before ++ after → after ≠ [] →
      ∃ u, runEvents before s = .next u ∧ u.blk.state ≠ .complete)

/-- 43_analyzer.md R167, R171 and 95_test_vectors.md section 8 item 4: frames, each after any noise without a marker, come out
of the Analyzer as exactly their SDUs, in order, and the machine is ready for the next. -/
def Obligations.AnalyzerFindsEveryFrameInNoise : Prop :=
  ∀ (items : List (List Byte × Sdu)) (k : Block),
    (∀ it ∈ items, Config.sync ∉ it.1 ∧ it.2.wellFormed = true) → k.Inv → k.state = .waitSync →
    (analyze (items.flatMap fun it => it.1 ++ frameBytes it.2.dst it.2.pdu.cmd it.2.pdu.payload) k).2 =
      items.map Prod.snd ∧
    (analyze (items.flatMap fun it => it.1 ++ frameBytes it.2.dst it.2.pdu.cmd it.2.pdu.payload) k).1.state =
      .waitSync

/-- R169: chunk boundaries are invisible, from any state. -/
def Obligations.SplittingAChunkDoesNotMatter : Prop :=
  ∀ (c₁ c₂ : List Byte) (k : Block),
    (analyze (c₁ ++ c₂) k).2 = (analyze c₁ k).2 ++ (analyze c₂ (analyze c₁ k).1).2 ∧
    (analyze (c₁ ++ c₂) k).1 = (analyze c₂ (analyze c₁ k).1).1

/-- 43_analyzer.md R165, R170: ABYTE never leaves COMPLETE; started there it drops its byte and hands out the waiting
frame; a chunk started outside COMPLETE ends outside COMPLETE and drops no byte in COMPLETE on the way. -/
def Obligations.AnalyzerNeverLeavesComplete : Prop :=
  (∀ (b : Byte) (k : Block), (abyte b k).1.state ≠ .complete) ∧
  (∀ (b : Byte) (k : Block), k.state = .complete → abyte b k = (State.reset.blk, some (storedSdu k))) ∧
  (∀ (c₁ c₂ : List Byte) (b : Byte) (k : Block), k.state ≠ .complete →
    (analyze (c₁ ++ b :: c₂) k).1.state ≠ .complete ∧
    (feedBlock b (analyze c₁ k).1).2.completeDrop = false)

/-- 30_encoding.md R90, 43_analyzer.md R165, R167: ANALYZE is its expansion into events: running them ends in the block
ANALYZE gives, and the COLLECTs among them hand out the SDUs ANALYZE returns. -/
def Obligations.AnalyzeIsItsExpansion : Prop :=
  ∀ (c : List Byte) (s : State),
    (∃ t, runEvents (analyzeEvents c s.blk) s = .next t ∧ t.blk = (analyze c s.blk).1 ∧ t.inputs = s.inputs) ∧
    collected (analyzeEvents c s.blk) s = (analyze c s.blk).2

/-- 60_exceptions.md R212 (a): a frame with exactly one byte changed, not the sync byte and not the length byte, fed from
WAIT_SYNC, produces no SDU and leaves WAIT_SYNC. -/
def Obligations.OneCorruptedByteIsRejected : Prop :=
  ∀ (dst cmd : Byte) (payload f : List Byte) (k : Block) (j : Nat) (b : Byte),
    encodeFrame dst cmd payload = some f → k.Inv → k.state = .waitSync →
    j < f.length → j ≠ 0 → j ≠ 3 → f[j]? ≠ some b →
    (analyze (f.set j b) k).2 = [] ∧ (analyze (f.set j b) k).1.state = .waitSync

/-- R135: a partial frame, a silence of more than 1000 ticks, then a whole frame: exactly one SDU, the whole frame's;
the prefix is discarded, not concatenated. -/
def Obligations.TimeoutDoesNotConcatenate : Prop :=
  ∀ (s : State) (gap : List Instr) (dst cmd : Byte) (payload f : List Byte),
    s.Inv → s.blk.state.midFrame = true → gap.all passing = true → 1000 < tickCount gap →
    encodeFrame dst cmd payload = some f →
    ∃ t, runEvents gap s = .next t ∧ (analyze f t.blk).2 = [mkSdu dst cmd payload] ∧
      (analyze f t.blk).1 = State.reset.blk

/-- 41_assembler_feed.md R134 and 95_test_vectors.md section 8 item 7: whatever frame a run from reset holds in COMPLETE was
fed, in order, as one run of bytes: the marker first and its correct checksum last, with no RESET, RST, mismatch or
timeout after the marker, neither before the checksum nor while the frame waits. -/
def Obligations.HandedOutFrameWasFed : Prop :=
  ∀ (inputs : List CycleWord) (es : List Instr) (t : State),
    runEvents es { State.reset with inputs := inputs } = .next t → t.blk.state = .complete →
    ∃ (before frame after : List Instr) (f : Sdu),
      es = before ++ .feed Config.sync :: frame ++ after ∧
      exec .collect t = .next { t with out := ⟨.ok, {}, .sdu f⟩ } ∧
      f.content = some (Config.sync :: fedBytes frame) ∧
      (∀ e ∈ frame ++ after, e ≠ .reset ∧ e ≠ .rst) ∧
      (∀ (done : List Instr) (e : Instr) (rest : List Instr), frame ++ after = done ++ e :: rest →
        ∃ u, runEvents (before ++ .feed Config.sync :: done ++ [e]) { State.reset with inputs := inputs } = .next u ∧
          u.out.ev.timeout = false ∧ u.out.ev.chkFail = false)
end

