-- ==== Sys2Proof/Laws/State.lean ====
section
/-! SUPPORT. What each named operation leaves in each field: one lemma per field per update, true by `rfl`. -/

namespace Sys2Proof.Machine

/-! ## `bufClear` -/

@[simp] theorem bufClear_state (k : Block) : (bufClear k).state = k.state := rfl
@[simp] theorem bufClear_chk (k : Block) : (bufClear k).chk = k.chk := rfl
@[simp] theorem bufClear_dst (k : Block) : (bufClear k).dst = k.dst := rfl
@[simp] theorem bufClear_cmd (k : Block) : (bufClear k).cmd = k.cmd := rfl
@[simp] theorem bufClear_len (k : Block) : (bufClear k).len = k.len := rfl
@[simp] theorem bufClear_cnt (k : Block) : (bufClear k).cnt = 0x00#8 := rfl
@[simp] theorem bufClear_buf (k : Block) : (bufClear k).buf = [] := rfl
@[simp] theorem bufClear_wdRun (k : Block) : (bufClear k).wdRun = k.wdRun := rfl
@[simp] theorem bufClear_wdCnt (k : Block) : (bufClear k).wdCnt = k.wdCnt := rfl

/-! ## `bufAppend` -/

@[simp] theorem bufAppend_state (k : Block) (b : Byte) : (bufAppend k b).state = k.state := rfl
@[simp] theorem bufAppend_chk (k : Block) (b : Byte) : (bufAppend k b).chk = k.chk := rfl
@[simp] theorem bufAppend_dst (k : Block) (b : Byte) : (bufAppend k b).dst = k.dst := rfl
@[simp] theorem bufAppend_cmd (k : Block) (b : Byte) : (bufAppend k b).cmd = k.cmd := rfl
@[simp] theorem bufAppend_len (k : Block) (b : Byte) : (bufAppend k b).len = k.len := rfl
@[simp] theorem bufAppend_cnt (k : Block) (b : Byte) : (bufAppend k b).cnt = countNext k := rfl
@[simp] theorem bufAppend_buf (k : Block) (b : Byte) : (bufAppend k b).buf = memWrite k.buf k.cnt.toNat b := rfl
@[simp] theorem bufAppend_wdRun (k : Block) (b : Byte) : (bufAppend k b).wdRun = k.wdRun := rfl
@[simp] theorem bufAppend_wdCnt (k : Block) (b : Byte) : (bufAppend k b).wdCnt = k.wdCnt := rfl

/-! ## `wdStart` -/

@[simp] theorem wdStart_state (k : Block) : (wdStart k).state = k.state := rfl
@[simp] theorem wdStart_chk (k : Block) : (wdStart k).chk = k.chk := rfl
@[simp] theorem wdStart_dst (k : Block) : (wdStart k).dst = k.dst := rfl
@[simp] theorem wdStart_cmd (k : Block) : (wdStart k).cmd = k.cmd := rfl
@[simp] theorem wdStart_len (k : Block) : (wdStart k).len = k.len := rfl
@[simp] theorem wdStart_cnt (k : Block) : (wdStart k).cnt = k.cnt := rfl
@[simp] theorem wdStart_buf (k : Block) : (wdStart k).buf = k.buf := rfl
@[simp] theorem wdStart_wdRun (k : Block) : (wdStart k).wdRun = true := rfl
@[simp] theorem wdStart_wdCnt (k : Block) : (wdStart k).wdCnt = 0#16 := rfl

/-! ## `wdStop` -/

@[simp] theorem wdStop_state (k : Block) : (wdStop k).state = k.state := rfl
@[simp] theorem wdStop_chk (k : Block) : (wdStop k).chk = k.chk := rfl
@[simp] theorem wdStop_dst (k : Block) : (wdStop k).dst = k.dst := rfl
@[simp] theorem wdStop_cmd (k : Block) : (wdStop k).cmd = k.cmd := rfl
@[simp] theorem wdStop_len (k : Block) : (wdStop k).len = k.len := rfl
@[simp] theorem wdStop_cnt (k : Block) : (wdStop k).cnt = k.cnt := rfl
@[simp] theorem wdStop_buf (k : Block) : (wdStop k).buf = k.buf := rfl
@[simp] theorem wdStop_wdRun (k : Block) : (wdStop k).wdRun = false := rfl
@[simp] theorem wdStop_wdCnt (k : Block) : (wdStop k).wdCnt = k.wdCnt := rfl

/-! ## `wdReset` -/

@[simp] theorem wdReset_state (k : Block) : (wdReset k).state = k.state := rfl
@[simp] theorem wdReset_chk (k : Block) : (wdReset k).chk = k.chk := rfl
@[simp] theorem wdReset_dst (k : Block) : (wdReset k).dst = k.dst := rfl
@[simp] theorem wdReset_cmd (k : Block) : (wdReset k).cmd = k.cmd := rfl
@[simp] theorem wdReset_len (k : Block) : (wdReset k).len = k.len := rfl
@[simp] theorem wdReset_cnt (k : Block) : (wdReset k).cnt = k.cnt := rfl
@[simp] theorem wdReset_buf (k : Block) : (wdReset k).buf = k.buf := rfl
@[simp] theorem wdReset_wdRun (k : Block) : (wdReset k).wdRun = false := rfl
@[simp] theorem wdReset_wdCnt (k : Block) : (wdReset k).wdCnt = k.wdCnt := rfl

/-! ## `asmClear` -/

@[simp] theorem asmClear_state (k : Block) : (asmClear k).state = .waitSync := rfl
@[simp] theorem asmClear_chk (k : Block) : (asmClear k).chk = 0x00#8 := rfl
@[simp] theorem asmClear_dst (k : Block) : (asmClear k).dst = 0x00#8 := rfl
@[simp] theorem asmClear_cmd (k : Block) : (asmClear k).cmd = 0x00#8 := rfl
@[simp] theorem asmClear_len (k : Block) : (asmClear k).len = 0x00#8 := rfl
@[simp] theorem asmClear_cnt (k : Block) : (asmClear k).cnt = 0x00#8 := rfl
@[simp] theorem asmClear_buf (k : Block) : (asmClear k).buf = [] := rfl
@[simp] theorem asmClear_wdRun (k : Block) : (asmClear k).wdRun = k.wdRun := rfl
@[simp] theorem asmClear_wdCnt (k : Block) : (asmClear k).wdCnt = k.wdCnt := rfl

/-! ## `resynchronise` -/

@[simp] theorem resynchronise_state (k : Block) : (resynchronise k).state = .waitSync := rfl
@[simp] theorem resynchronise_chk (k : Block) : (resynchronise k).chk = 0x00#8 := rfl
@[simp] theorem resynchronise_dst (k : Block) : (resynchronise k).dst = 0x00#8 := rfl
@[simp] theorem resynchronise_cmd (k : Block) : (resynchronise k).cmd = 0x00#8 := rfl
@[simp] theorem resynchronise_len (k : Block) : (resynchronise k).len = 0x00#8 := rfl
@[simp] theorem resynchronise_cnt (k : Block) : (resynchronise k).cnt = 0x00#8 := rfl
@[simp] theorem resynchronise_buf (k : Block) : (resynchronise k).buf = [] := rfl
@[simp] theorem resynchronise_wdRun (k : Block) : (resynchronise k).wdRun = k.wdRun := rfl
@[simp] theorem resynchronise_wdCnt (k : Block) : (resynchronise k).wdCnt = k.wdCnt := rfl

/-! ## `wdTick` -/

@[simp] theorem wdTick_state (k : Block) : (wdTick k).state = k.state := by
  unfold wdTick; split <;> rfl
@[simp] theorem wdTick_chk (k : Block) : (wdTick k).chk = k.chk := by
  unfold wdTick; split <;> rfl
@[simp] theorem wdTick_dst (k : Block) : (wdTick k).dst = k.dst := by
  unfold wdTick; split <;> rfl
@[simp] theorem wdTick_cmd (k : Block) : (wdTick k).cmd = k.cmd := by
  unfold wdTick; split <;> rfl
@[simp] theorem wdTick_len (k : Block) : (wdTick k).len = k.len := by
  unfold wdTick; split <;> rfl
@[simp] theorem wdTick_cnt (k : Block) : (wdTick k).cnt = k.cnt := by
  unfold wdTick; split <;> rfl
@[simp] theorem wdTick_buf (k : Block) : (wdTick k).buf = k.buf := by
  unfold wdTick; split <;> rfl
@[simp] theorem wdTick_wdRun (k : Block) : (wdTick k).wdRun = k.wdRun := by
  unfold wdTick; split <;> rfl
@[simp] theorem wdTick_wdCnt (k : Block) :
    (wdTick k).wdCnt = if k.wdRun then tickNext k.wdCnt else k.wdCnt := by
  unfold wdTick; split <;> rfl

/-! ## The ports -/

@[simp] theorem raiseInvalidState_blk (s : State) : (raiseInvalidState s).blk = s.blk := rfl
@[simp] theorem raiseInvalidState_inputs (s : State) : (raiseInvalidState s).inputs = s.inputs := rfl
@[simp] theorem raiseInvalidState_out (s : State) :
    (raiseInvalidState s).out = ⟨.invalidState, { collectErr := true }, .nothing⟩ := rfl

@[simp] theorem presentWord_blk (s : State) (w : CycleWord) : (presentWord s w).blk = s.blk := rfl
@[simp] theorem presentWord_inputs (s : State) (w : CycleWord) : (presentWord s w).inputs = w :: s.inputs := rfl
@[simp] theorem presentWord_out (s : State) (w : CycleWord) : (presentWord s w).out = s.out := rfl

theorem takeWord_of_none (s : State) (h : s.inputs = []) : takeWord s = (idleWord, s) := by
  simp [takeWord, h]

theorem takeWord_of_word (s : State) (w : CycleWord) (rest : List CycleWord) (h : s.inputs = w :: rest) :
    takeWord s = (w, { s with inputs := rest }) := by
  simp [takeWord, h]

@[simp] theorem takeWord_present (s : State) (w : CycleWord) : takeWord (presentWord s w) = (w, s) := rfl

/-- RESET and RST leave the state after reset, whatever was there (R155, R230). -/
@[simp] theorem resetBlock_eq (k : Block) : resetBlock k = Block.reset := rfl

end Sys2Proof.Machine
end

