-- ==== Sys2Proof/Laws/Events.lean ====
section
/-! SUPPORT. What each event answers, said once: the equation of every meaning, of FEED state by state, and of a run of
events. Later proofs cite these instead of unfolding `exec`. -/

namespace Sys2Proof.Machine

/-! ## The events -/

theorem exec_rst (s : State) : exec .rst s = .next { s with blk := Block.reset, out := Output.idle } := rfl

theorem exec_tick (s : State) : exec .tick s = .next { s with blk := wdTick s.blk, out := Output.idle } := rfl

theorem exec_nop (s : State) : exec .nop s = .next { s with out := Output.idle } := rfl

theorem exec_reset (s : State) :
    exec .reset s = .next { s with blk := Block.reset, out := ⟨.ok, {}, .nothing⟩ } := rfl

theorem exec_feed (b : Byte) (s : State) :
    exec (.feed b) s = .next { s with
      blk := (feedBlock b s.blk).1
      out := ⟨.ok, (feedBlock b s.blk).2, .phase (feedBlock b s.blk).1.state⟩ } := rfl

theorem exec_collect_complete (s : State) (h : s.blk.state = .complete) :
    exec .collect s = .next { s with out := ⟨.ok, {}, .sdu (storedSdu s.blk)⟩ } := by
  simp [exec, execCollect, h]

theorem exec_collect_refused (s : State) (h : s.blk.state ≠ .complete) :
    exec .collect s = .next (raiseInvalidState s) := by
  simp [exec, execCollect, h]

/-- The block after an event, as one function of the event and the block before. -/
def blockAfter : Instr → Block → Block
  | .rst, _ => Block.reset
  | .tick, k => wdTick k
  | .nop, k => k
  | .feed b, k => (feedBlock b k).1
  | .collect, k => k
  | .reset, _ => Block.reset

/-- Everything an event can do: it answers a next state, whose block is `blockAfter`, whose inputs are those before. -/
theorem exec_spec (i : Instr) (s : State) :
    ∃ o : Output, exec i s = .next { s with blk := blockAfter i s.blk, out := o } := by
  cases i with
  | rst => exact ⟨_, rfl⟩
  | tick => exact ⟨_, rfl⟩
  | nop => exact ⟨_, rfl⟩
  | feed b => exact ⟨_, rfl⟩
  | collect =>
    by_cases h : s.blk.state = .complete
    · exact ⟨_, exec_collect_complete s h⟩
    · exact ⟨_, exec_collect_refused s h⟩
  | reset => exact ⟨_, rfl⟩

/-- The inversion form: what is known of a next state. -/
theorem exec_inv {i : Instr} {s t : State} (h : exec i s = .next t) :
    t.blk = blockAfter i s.blk ∧ t.inputs = s.inputs := by
  obtain ⟨o, ho⟩ := exec_spec i s
  rw [ho] at h
  cases h
  exact ⟨rfl, rfl⟩

/-! ## FEED, state by state -/

theorem timedOut_iff (k : Block) : timedOut k = true ↔ Config.timeoutTicks.toNat < k.wdCnt.toNat := by
  rw [timedOut, exceedsTimeout, wdElapsed, BitVec.ult_iff_lt, BitVec.lt_def]

theorem feedBlock_complete (b : Byte) (k : Block) (h : k.state = .complete) :
    feedBlock b k = (k, { completeDrop := true }) := by
  simp [feedBlock, h, feedComplete]

/-- A FEED that times out is a FEED of a cleared block, with the pulse added (R122). -/
theorem feedBlock_timeout (b : Byte) (k : Block) (hk : k.state ≠ .complete) (ht : timedOut k = true) :
    feedBlock b k =
      ((feedWaitSync b (wdStart (asmClear k))).1,
        { (feedWaitSync b (wdStart (asmClear k))).2 with timeout := true }) := by
  simp [feedBlock, hk, feedRunning, ht, feedDispatch, resynchronise]

/-- A FEED that does not time out restarts the watchdog and dispatches on the state (R123). -/
theorem feedBlock_dispatch (b : Byte) (k : Block) (hk : k.state ≠ .complete) (ht : timedOut k = false) :
    feedBlock b k = feedDispatch b (wdStart k) := by
  simp [feedBlock, hk, feedRunning, ht]

theorem feedDispatch_waitSync (b : Byte) (k : Block) (h : k.state = .waitSync) :
    feedDispatch b k = feedWaitSync b k := by simp [feedDispatch, h]

theorem feedDispatch_waitDst (b : Byte) (k : Block) (h : k.state = .waitDst) :
    feedDispatch b k = feedWaitDst b k := by simp [feedDispatch, h]

theorem feedDispatch_waitCmd (b : Byte) (k : Block) (h : k.state = .waitCmd) :
    feedDispatch b k = feedWaitCmd b k := by simp [feedDispatch, h]

theorem feedDispatch_waitLen (b : Byte) (k : Block) (h : k.state = .waitLen) :
    feedDispatch b k = feedWaitLen b k := by simp [feedDispatch, h]

theorem feedDispatch_waitData (b : Byte) (k : Block) (h : k.state = .waitData) :
    feedDispatch b k = feedWaitData b k := by simp [feedDispatch, h]

theorem feedDispatch_waitChecksum (b : Byte) (k : Block) (h : k.state = .waitChecksum) :
    feedDispatch b k = feedWaitChecksum b k := by simp [feedDispatch, h]

/-! ## Runs of events -/

@[simp] theorem runEvents_nil (s : State) : runEvents [] s = .next s := rfl

theorem runEvents_cons {i : Instr} {es : List Instr} {s t : State} (h : exec i s = .next t) :
    runEvents (i :: es) s = runEvents es t := by
  simp [runEvents, h]

theorem runEvents_single (i : Instr) (s : State) : runEvents [i] s = exec i s := by
  obtain ⟨o, ho⟩ := exec_spec i s
  rw [runEvents_cons ho, runEvents_nil, ho]

/-- A run answers a next state, with the inputs those before. -/
theorem runEvents_spec (es : List Instr) (s : State) :
    ∃ t, runEvents es s = .next t ∧ t.blk = es.foldl (fun k i => blockAfter i k) s.blk ∧ t.inputs = s.inputs := by
  induction es generalizing s with
  | nil => exact ⟨s, rfl, rfl, rfl⟩
  | cons i es ih =>
    obtain ⟨o, ho⟩ := exec_spec i s
    obtain ⟨t, ht, hb, hi⟩ := ih { s with blk := blockAfter i s.blk, out := o }
    exact ⟨t, (runEvents_cons ho).trans ht, hb, hi⟩

/-- A run of two lists is the second run from where the first one ends (R60). -/
theorem runEvents_append {es fs : List Instr} {s t : State} (h : runEvents es s = .next t) :
    runEvents (es ++ fs) s = runEvents fs t := by
  induction es generalizing s with
  | nil => cases h; rfl
  | cons i es ih =>
    obtain ⟨o, ho⟩ := exec_spec i s
    rw [runEvents_cons ho] at h
    rw [List.cons_append, runEvents_cons ho, ih h]

/-! ## A cycle -/

theorem step_of_word (s : State) (w : CycleWord) (rest : List CycleWord) (h : s.inputs = w :: rest) :
    step s = runEvents (decodeEvents w) { s with inputs := rest } := by
  simp [step, takeWord_of_word s w rest h]

theorem step_of_none (s : State) (h : s.inputs = []) : step s = runEvents (decodeEvents idleWord) s := by
  simp [step, takeWord_of_none s h]

end Sys2Proof.Machine
end

