-- ==== Sys2Proof/Laws/Feed.lean ====
section
/-! SUPPORT. Everything a FEED can do, said once: eleven cases, each with the block after and the pulses. -/

namespace Sys2Proof.Machine

/-- The inversion lemma of FEED (R120, R133): every FEED is exactly one of these cases. -/
theorem feedBlock_cases (b : Byte) (k : Block) :
    -- COMPLETE: dropped (R131)
    (k.state = .complete ∧ feedBlock b k = (k, { completeDrop := true })) ∨
    -- a timeout, then the marker or noise (R122)
    (k.state ≠ .complete ∧ timedOut k = true ∧ b = Config.sync ∧
      feedBlock b k = ({ Block.reset with wdRun := true, chk := Config.sync, state := .waitDst },
        { timeout := true, syncFound := true })) ∨
    (k.state ≠ .complete ∧ timedOut k = true ∧ b ≠ Config.sync ∧
      feedBlock b k = ({ Block.reset with wdRun := true }, { timeout := true, noiseDrop := true })) ∨
    -- WAIT_SYNC (R124)
    (timedOut k = false ∧ k.state = .waitSync ∧ b = Config.sync ∧
      feedBlock b k = ({ wdStart k with chk := Config.sync, state := .waitDst }, { syncFound := true })) ∨
    (timedOut k = false ∧ k.state = .waitSync ∧ b ≠ Config.sync ∧
      feedBlock b k = (wdStart k, { noiseDrop := true })) ∨
    -- the header (R125, R126, R127)
    (timedOut k = false ∧ k.state = .waitDst ∧
      feedBlock b k = ({ wdStart k with dst := b, chk := k.chk + b, state := .waitCmd }, {})) ∨
    (timedOut k = false ∧ k.state = .waitCmd ∧
      feedBlock b k = ({ wdStart k with cmd := b, chk := k.chk + b, state := .waitLen }, {})) ∨
    (timedOut k = false ∧ k.state = .waitLen ∧
      feedBlock b k = ({ wdStart k with
        len := b, chk := k.chk + b, cnt := 0#8, buf := [],
        state := if b = 0#8 then .waitChecksum else .waitData }, {})) ∨
    -- WAIT_DATA (R128)
    (timedOut k = false ∧ k.state = .waitData ∧
      feedBlock b k = ({ wdStart k with
        buf := memWrite k.buf k.cnt.toNat b, chk := k.chk + b, cnt := k.cnt + 1#8,
        state := if k.cnt + 1#8 = k.len then .waitChecksum else .waitData }, {})) ∨
    -- WAIT_CHECKSUM (R129, R130)
    (timedOut k = false ∧ k.state = .waitChecksum ∧ b = k.chk ∧
      feedBlock b k = ({ wdStart k with wdRun := false, state := .complete }, { frameOk := true })) ∨
    (timedOut k = false ∧ k.state = .waitChecksum ∧ b ≠ k.chk ∧
      feedBlock b k = ({ Block.reset with wdRun := true }, { chkFail := true })) := by
  by_cases hc : k.state = .complete
  · exact .inl ⟨hc, feedBlock_complete b k hc⟩
  right
  cases ht : timedOut k with
  | true =>
    by_cases hb : b = Config.sync
    · refine .inl ⟨hc, rfl, hb, ?_⟩
      rw [feedBlock_timeout b k hc ht]
      simp [feedWaitSync, isMarker, hb, asmClear, bufClear, wdStart]
    · refine .inr (.inl ⟨hc, rfl, hb, ?_⟩)
      rw [feedBlock_timeout b k hc ht]
      simp [feedWaitSync, isMarker, hb, asmClear, bufClear, wdStart]
  | false =>
    right; right
    rw [feedBlock_dispatch b k hc ht]
    cases hk : k.state with
    | waitSync =>
      rw [feedDispatch_waitSync b (wdStart k) hk]
      by_cases hb : b = Config.sync
      · simp [feedWaitSync, isMarker, hb]
      · simp [feedWaitSync, isMarker, hb]
    | waitDst => simp [feedDispatch_waitDst b (wdStart k) hk, feedWaitDst, checksumAdd]
    | waitCmd => simp [feedDispatch_waitCmd b (wdStart k) hk, feedWaitCmd, checksumAdd]
    | waitLen => simp [feedDispatch_waitLen b (wdStart k) hk, feedWaitLen, bufClear, declaresPayload, checksumAdd]
    | waitData =>
      simp [feedDispatch_waitData b (wdStart k) hk, feedWaitData, bufAppend, lengthReached, countNext, checksumAdd]
    | waitChecksum =>
      rw [feedDispatch_waitChecksum b (wdStart k) hk]
      by_cases hb : b = k.chk
      · simp [feedWaitChecksum, matchesChecksum, hb, wdStop]
      · simp [feedWaitChecksum, matchesChecksum, hb, wdStart, resynchronise, asmClear, bufClear]
    | complete => exact absurd hk hc

end Sys2Proof.Machine
end

