-- ==== Sys2Proof/Laws/Frame.lean ====
section
/-! SUPPORT. The small lemmas of the Frame Model. -/

namespace Sys2Proof.Machine

@[simp] theorem byteSum_nil : byteSum [] = 0 := rfl

@[simp] theorem byteSum_cons (b : Byte) (s : List Byte) : byteSum (b :: s) = b.toNat + byteSum s := rfl

@[simp] theorem byteSum_append (s t : List Byte) : byteSum (s ++ t) = byteSum s + byteSum t := by
  induction s with
  | nil => simp
  | cons b s ih => simp [ih, Nat.add_assoc]

/-- A frame is five bytes longer than its payload (R70). -/
@[simp] theorem frameBytes_length (dst cmd : Byte) (payload : List Byte) :
    (frameBytes dst cmd payload).length = payload.length + Config.minFrame := by
  simp [frameBytes, Config.minFrame]

theorem encodeFrame_of_le {dst cmd : Byte} {payload : List Byte} (h : payload.length ≤ Config.maxPayload) :
    encodeFrame dst cmd payload = some (frameBytes dst cmd payload) :=
  if_pos h

theorem encodeFrame_of_gt {dst cmd : Byte} {payload : List Byte} (h : Config.maxPayload < payload.length) :
    encodeFrame dst cmd payload = none :=
  if_neg (Nat.not_le.2 h)

/-- The longest frame (R11, R70). -/
theorem encodeFrame_length_le {dst cmd : Byte} {payload f : List Byte} (h : encodeFrame dst cmd payload = some f) :
    f.length ≤ Config.maxFrame := by
  unfold encodeFrame at h
  split at h
  · rename_i hle
    cases h
    rw [frameBytes_length]
    simp only [Config.maxPayload, Config.minFrame, Config.maxFrame] at hle ⊢
    omega
  · cases h

/-- The parameters fit together: the threshold lies below the saturated count (R11, D4). -/
theorem timeoutTicks_lt_wdMax : Config.timeoutTicks.toNat * Config.tickMs = 1000 ∧
    Config.timeoutTicks < Config.wdMax := by
  decide

end Sys2Proof.Machine
end

