-- ==== Sys2Proof/Laws/Memory.lean ====
section
/-! SUPPORT. The payload buffer: every memory operation keeps the canonical form; a read after a write gives the byte
written; a write leaves every other cell alone; a write past the last listed cell appends. -/

namespace Sys2Proof.Machine

/-! ## The canonical form -/

/-- The canonical form in the terms of the library: indices strictly rising, and inside the buffer. -/
theorem Memory.wf_iff (m : Memory) :
    Memory.wf m = true ↔ (m.map Prod.fst).Pairwise (· < ·) ∧ ∀ a ∈ m.map Prod.fst, a < Config.bufDepth := by
  induction m with
  | nil => simp [Memory.wf]
  | cons c m ih =>
    cases m with
    | nil => simp [Memory.wf]
    | cons d m =>
      simp only [Memory.wf, Bool.and_eq_true, decide_eq_true_eq, ih, List.map_cons, List.pairwise_cons,
        List.mem_cons]
      constructor
      · rintro ⟨hcd, ⟨hd, hp⟩, hb⟩
        refine ⟨⟨?_, hd, hp⟩, ?_⟩
        · rintro a (rfl | ha)
          · exact hcd
          · exact hcd.trans (hd a ha)
        · rintro a (rfl | ha)
          · exact hcd.trans (hb d.1 (.inl rfl))
          · exact hb a ha
      · rintro ⟨⟨hc, hd, hp⟩, hb⟩
        exact ⟨hc d.1 (.inl rfl), ⟨hd, hp⟩, fun a ha => hb a (.inr ha)⟩

@[simp] theorem Memory.wf_nil : Memory.wf [] = true := rfl

/-- The indices listed after an insertion: those before and the one inserted. -/
theorem Memory.mem_insert_indices (m : Memory) (i : Nat) (v : Byte) (a : Nat) :
    a ∈ (Memory.insert m i v).map Prod.fst ↔ a = i ∨ a ∈ m.map Prod.fst := by
  induction m with
  | nil => simp [Memory.insert]
  | cons c m ih =>
    simp only [Memory.insert]
    split
    · simp
    · split
      · simp_all
      · simp only [List.map_cons, List.mem_cons, ih]
        tauto

/-- Inserting a cell of the buffer keeps the canonical form. -/
theorem Memory.insert_wf (m : Memory) (i : Nat) (v : Byte) (h : Memory.wf m = true) (hi : i < Config.bufDepth) :
    Memory.wf (Memory.insert m i v) = true := by
  rw [Memory.wf_iff] at h ⊢
  refine ⟨?_, fun a ha => ?_⟩
  · obtain ⟨hp, -⟩ := h
    induction m with
    | nil => simp [Memory.insert]
    | cons c m ih =>
      simp only [List.map_cons, List.pairwise_cons] at hp
      simp only [Memory.insert]
      split
      case isTrue hlt =>
        simp only [List.map_cons, List.pairwise_cons, List.mem_cons]
        refine ⟨?_, hp⟩
        rintro a (rfl | ha)
        · exact hlt
        · exact hlt.trans (hp.1 a ha)
      case isFalse hge =>
        split
        case isTrue heq =>
          subst heq
          simpa using hp
        case isFalse hne =>
          simp only [List.map_cons, List.pairwise_cons]
          refine ⟨fun a ha => ?_, ih hp.2⟩
          rcases (Memory.mem_insert_indices m i v a).1 ha with rfl | ha
          · omega
          · exact hp.1 a ha
  · rcases (Memory.mem_insert_indices m i v a).1 ha with rfl | ha
    · exact hi
    · exact h.2 a ha

/-- `MemWrite` keeps the canonical form, for every index. -/
theorem memWrite_wf (m : Memory) (i : Nat) (v : Byte) (h : Memory.wf m = true) :
    Memory.wf (memWrite m i v) = true := by
  unfold memWrite
  split
  · exact Memory.insert_wf m i v h ‹_›
  · exact h

/-- Clearing the buffer leaves the canonical form. -/
theorem bufClear_wf (k : Block) : Memory.wf (bufClear k).buf = true := rfl

/-- Appending a byte keeps the canonical form. -/
theorem bufAppend_wf (k : Block) (b : Byte) (h : Memory.wf k.buf = true) :
    Memory.wf (bufAppend k b).buf = true :=
  memWrite_wf _ _ _ h

/-- The memory of the state after reset has the canonical form. -/
theorem reset_buf_wf : Memory.wf State.reset.blk.buf = true := rfl

/-! ## Read after write -/

@[simp] theorem Memory.read_nil (i : Nat) : Memory.read [] i = none := rfl

theorem Memory.read_insert_same (m : Memory) (i : Nat) (v : Byte) :
    Memory.read (Memory.insert m i v) i = some v := by
  induction m with
  | nil => simp [Memory.insert, Memory.read]
  | cons c m ih =>
    simp only [Memory.insert]
    split
    · simp [Memory.read]
    · split
      · simp [Memory.read]
      · simp [Memory.read, *]

theorem Memory.read_insert_other (m : Memory) (i a : Nat) (v : Byte) (h : a ≠ i) :
    Memory.read (Memory.insert m i v) a = Memory.read m a := by
  induction m with
  | nil => simp [Memory.insert, Memory.read, h]
  | cons c m ih =>
    simp only [Memory.insert]
    split
    · simp [Memory.read, h]
    · split
      · rename_i heq
        subst heq
        simp [Memory.read, h]
      · simp [Memory.read, ih]

/-- A read after a `MemWrite` to the same cell of the buffer gives the byte written. -/
theorem read_memWrite_same (m : Memory) (i : Nat) (v : Byte) (h : i < Config.bufDepth) :
    Memory.read (memWrite m i v) i = some v := by
  simp [memWrite, h, Memory.read_insert_same]

/-- A `MemWrite` leaves every other cell alone. -/
theorem read_memWrite_other (m : Memory) (i a : Nat) (v : Byte) (h : a ≠ i) :
    Memory.read (memWrite m i v) a = Memory.read m a := by
  unfold memWrite
  split
  · exact Memory.read_insert_other m i a v h
  · rfl

theorem memRead_of_read (m : Memory) (i : Nat) (v : Byte) (h : Memory.read m i = some v) : memRead m i = v := by
  simp [memRead, h]

/-- `MemRead` gives what `MemWrite` wrote. -/
theorem memRead_memWrite_same (m : Memory) (i : Nat) (v : Byte) (h : i < Config.bufDepth) :
    memRead (memWrite m i v) i = v :=
  memRead_of_read _ _ _ (read_memWrite_same m i v h)

theorem memRead_memWrite_other (m : Memory) (i a : Nat) (v : Byte) (h : a ≠ i) :
    memRead (memWrite m i v) a = memRead m a := by
  simp [memRead, read_memWrite_other m i a v h]

/-- A listed cell has a value: a read of it is no free value. -/
theorem Memory.read_isSome (m : Memory) (i : Nat) : (Memory.read m i).isSome = true ↔ i ∈ m.map Prod.fst := by
  induction m with
  | nil => simp
  | cons c m ih =>
    simp only [Memory.read, List.map_cons, List.mem_cons]
    split
    · simp [*]
    · simp [*]

/-! ## Appending at the end -/

/-- Inserting above every listed cell appends. -/
theorem Memory.insert_above (m : Memory) (i : Nat) (v : Byte) (h : ∀ a ∈ m.map Prod.fst, a < i) :
    Memory.insert m i v = m ++ [(i, v)] := by
  induction m with
  | nil => rfl
  | cons c m ih =>
    have hc : c.1 < i := h c.1 (by simp)
    have hm : ∀ a ∈ m.map Prod.fst, a < i := fun a ha => h a (by simp [ha])
    simp [Memory.insert, ih hm, Nat.not_lt.2 hc.le, hc.ne']

@[simp] theorem memBytes_length (m : Memory) (n : Nat) : (memBytes m n).length = n := by
  simp [memBytes]

@[simp] theorem memBytes_zero (m : Memory) : memBytes m 0 = [] := rfl

/-- One byte more: the bytes before and the cell after them. -/
theorem memBytes_succ (m : Memory) (n : Nat) : memBytes m (n + 1) = memBytes m n ++ [memRead m n] := by
  simp [memBytes, List.range_succ]

/-- The bytes below a written cell are those before the write. -/
theorem memBytes_memWrite (m : Memory) (n : Nat) (v : Byte) : memBytes (memWrite m n v) n = memBytes m n := by
  refine List.map_congr_left fun a ha => memRead_memWrite_other m n a v ?_
  exact (List.mem_range.1 ha).ne

/-- Writing the cell after the first `n` bytes appends a byte to them. -/
theorem memBytes_append (m : Memory) (n : Nat) (v : Byte) (h : n < Config.bufDepth) :
    memBytes (memWrite m n v) (n + 1) = memBytes m n ++ [v] := by
  rw [memBytes_succ, memBytes_memWrite, memRead_memWrite_same m n v h]

end Sys2Proof.Machine
end

