-- ==== Sys2Proof/Laws/PerInstr.lean ====
section
/-! SUPPORT. Per-instruction laws, one lemma per constructor. Family `EncodesRow`: the word of an event matches the
event's own row of the opcode table, and no other row but, for TICK, that of NOP (R79, R89). -/

namespace Sys2Proof.Laws.EncodesRow

/-- `match` of the event's row of the opcode table (R79). -/
def rowMatch : Instr → CycleWord
  | .rst => 0x800#12
  | .tick => 0x400#12
  | .nop => 0x000#12
  | .feed _ => 0x100#12
  | .collect => 0x200#12
  | .reset => 0x300#12

/-- `mask` of the event's row of the opcode table (R79). -/
def rowMask : Instr → CycleWord
  | .rst => 0x800#12
  | .tick => 0xC00#12
  | .nop => 0xB00#12
  | .feed _ => 0xB00#12
  | .collect => 0xB00#12
  | .reset => 0xB00#12

/-- The event is well formed, its word matches its row, and the operand bits are the operand. -/
def Statement (i : Instr) : Prop :=
  i.wellFormed = true ∧ encode i &&& rowMask i = rowMatch i ∧ dinField (encode i) = dinOf i

theorem rst : Statement .rst := by unfold Statement; decide

theorem tick : Statement .tick := by unfold Statement; decide

theorem nop : Statement .nop := by unfold Statement; decide

theorem feed (b : Byte) : Statement (.feed b) := by
  have h : ∀ c : Byte, encode (.feed c) &&& 0xB00#12 = 0x100#12 ∧ dinField (encode (.feed c)) = c := by decide
  exact ⟨rfl, (h b).1, (h b).2⟩

theorem collect : Statement .collect := by unfold Statement; decide

theorem reset : Statement .reset := by unfold Statement; decide

end Sys2Proof.Laws.EncodesRow
end

