-- ==== Sys2Proof/Laws/Words.lean ====
section
/-! SUPPORT. The fields of a cycle word put together from its fields, and back (R76). -/

namespace Sys2Proof

theorem rstBit_cycleWord (rst tick : Bool) (op : OpCode) (din : Byte) : rstBit (cycleWord rst tick op din) = rst := by
  simp [rstBit, cycleWord]

theorem tickBit_cycleWord (rst tick : Bool) (op : OpCode) (din : Byte) :
    tickBit (cycleWord rst tick op din) = tick := by
  simp [tickBit, cycleWord]

theorem opField_cycleWord (rst tick : Bool) (op : OpCode) (din : Byte) :
    opField (cycleWord rst tick op din) = op := by
  refine BitVec.eq_of_getLsbD_eq fun i hi => ?_
  rcases (by omega : i = 0 ∨ i = 1) with rfl | rfl <;> simp [opField, cycleWord]

theorem dinField_cycleWord (rst tick : Bool) (op : OpCode) (din : Byte) :
    dinField (cycleWord rst tick op din) = din := by
  refine BitVec.eq_of_getLsbD_eq fun i hi => ?_
  rcases (by omega : i = 0 ∨ i = 1 ∨ i = 2 ∨ i = 3 ∨ i = 4 ∨ i = 5 ∨ i = 6 ∨ i = 7) with
    h | h | h | h | h | h | h | h <;> subst h <;> simp [dinField, cycleWord]

/-- Every word is put together from its fields. -/
theorem cycleWord_fields (w : CycleWord) : cycleWord (rstBit w) (tickBit w) (opField w) (dinField w) = w := by
  refine BitVec.eq_of_getLsbD_eq fun i hi => ?_
  rcases (by omega : i = 0 ∨ i = 1 ∨ i = 2 ∨ i = 3 ∨ i = 4 ∨ i = 5 ∨ i = 6 ∨ i = 7 ∨ i = 8 ∨ i = 9 ∨ i = 10 ∨ i = 11)
    with h | h | h | h | h | h | h | h | h | h | h | h <;> subst h <;>
    simp [cycleWord, rstBit, tickBit, opField, dinField]

/-- The two fields an operation is read from (R77). -/
theorem decodeOp_cycleWord (rst tick : Bool) (op : OpCode) (din : Byte) :
    decodeOp (cycleWord rst tick op din) =
      if op = 0b00#2 then .nop else if op = 0b01#2 then .feed din else if op = 0b10#2 then .collect else .reset := by
  rw [decodeOp, opField_cycleWord, dinField_cycleWord]

end Sys2Proof
end

