-- ==== Sys2Proof/Tests/Slice0.lean ====
section
/-! SUPPORT. The model's own tests: well-formedness smoke, decoding of written-out words, one-step vectors of
spec/95_test_vectors.md, and a witness for every statement that has hypotheses. -/

namespace Sys2Proof.Tests

open Sys2Proof Sys2Proof.Machine

/-! ## Helpers -/

/-- A state in the spec's notation `(state, chk, dst, cmd, len, payload, wd_run, wd_cnt)`. -/
def st (p : Phase) (chk dst cmd len : Byte) (payload : List Byte) (run : Bool) (n : TickCount) : State where
  blk := { state := p, chk := chk, dst := dst, cmd := cmd, len := len, cnt := BitVec.ofNat 8 payload.length,
           buf := payload.zipIdx.map fun x => (x.2, x.1), wdRun := run, wdCnt := n }
  inputs := []
  out := Output.idle

/-- The state an outcome holds, if it is a next state. -/
def nextOf (o : Host.Outcome State Fault Refusal) : Option State :=
  match o with
  | .next s => some s
  | .fault _ => none
  | .refused _ => none

/-- Block and outputs after an event. -/
def after (i : Instr) (s : State) : Option (Block × Output) := (nextOf (exec i s)).map fun t => (t.blk, t.out)

/-- The block after one cycle. -/
def afterWord (w : CycleWord) (s : State) : Option (Block × Output) :=
  (nextOf (step { s with inputs := [w] })).map fun t => (t.blk, t.out)

/-! ## Well-formedness: each check refuses an ill-formed term -/

theorem test_cycle_two_ticks_refused : cycleWellFormed [.tick, .tick] = false := by decide
theorem test_cycle_rst_and_nop_refused : cycleWellFormed [.rst, .nop] = false := by decide
theorem test_cycle_empty_refused : cycleWellFormed [] = false := by decide
theorem test_cycle_tick_feed_accepted : cycleWellFormed [.tick, .feed 0x5A#8] = true := by decide
theorem test_tick_is_no_operation : Instr.isOperation .tick = false := by decide
theorem test_pdu_256_bytes_refused : Pdu.wellFormed ⟨0x00#8, List.replicate 256 0x00#8⟩ = false := by
  simp [Pdu.wellFormed, Config.maxPayload, -List.reduceReplicate]
theorem test_sdu_wrong_sync_refused : Sdu.wellFormed ⟨0x5B#8, 0x00#8, ⟨0x00#8, []⟩⟩ = false := by decide
theorem test_word_4096_refused : isCycleWord 4096 = false := by decide
theorem test_wide_number_rejected_by_name : cycleWordOfNat 0x1000 = .error (.wordTooWide 0x1000) := by rfl
theorem test_table_word_too_wide_refused : decodeTableWord 16 0x1800 = none := by decide

/-! ## Decoding: words written out bit by bit from R76, R77, R79 -/

theorem test_decode_rst : decodeEvents 0b1_0_00_00000000#12 = [.rst] := by decide
theorem test_decode_tick : decodeEvents 0b0_1_00_00000000#12 = [.tick, .nop] ∧ decode 0b0_1_00_00000000#12 = .tick := by
  decide
theorem test_decode_nop : decodeEvents 0b0_0_00_11111111#12 = [.nop] := by decide
theorem test_decode_feed : decodeEvents 0b0_0_01_01011010#12 = [.feed 0x5A#8] := by decide
theorem test_decode_tick_feed : decodeEvents 0b0_1_01_00010000#12 = [.tick, .feed 0x10#8] := by decide
theorem test_decode_collect : decodeEvents 0b0_0_10_00000000#12 = [.collect] := by decide
theorem test_decode_reset : decodeEvents 0b0_0_11_00000000#12 = [.reset] := by decide
theorem test_encode_words : encode .rst = 0x800#12 ∧ encode .tick = 0x400#12 ∧ encode .nop = 0x000#12 ∧
    encode (.feed 0x6B#8) = 0x16B#12 ∧ encode .collect = 0x200#12 ∧ encode .reset = 0x300#12 := by decide
theorem test_table_rows : decodeTableWord 16 0x800 = some .rst ∧ decodeTableWord 16 0x400 = some .tick ∧
    decodeTableWord 16 0x000 = some .nop ∧ decodeTableWord 16 0x100 = some (.feed 0x00#8) ∧
    decodeTableWord 16 0x200 = some .collect ∧ decodeTableWord 16 0x300 = some .reset := by decide
theorem test_fetch_word_runs_feed :
    (nextOf (step (State.reset.withFetchWord 16 0x15A))).map (·.blk.state) = some .waitDst := by decide
theorem test_fetch_word_runs_collect :
    (nextOf (step (State.reset.withFetchWord 16 0x200))).map (·.out.rsp) = some .invalidState := by decide

/-! ## FEED (V-A1 to V-A16) -/

/-- V-A1: WAIT_DATA, first of two payload bytes; the accumulator wraps. -/
theorem test_feed_data_wraps : after (.feed 0xAA#8) (st .waitData 0x6D#8 0x01#8 0x10#8 0x02#8 [] true 0#16) =
    some ((st .waitData 0x17#8 0x01#8 0x10#8 0x02#8 [0xAA#8] true 0#16).blk, ⟨.ok, {}, .phase .waitData⟩) := by decide
/-- V-A1: the last payload byte. -/
theorem test_feed_data_last : after (.feed 0xBB#8) (st .waitData 0x17#8 0x01#8 0x10#8 0x02#8 [0xAA#8] true 0#16) =
    some ((st .waitChecksum 0xD2#8 0x01#8 0x10#8 0x02#8 [0xAA#8, 0xBB#8] true 0#16).blk,
      ⟨.ok, {}, .phase .waitChecksum⟩) := by decide
/-- V-A7 (a): 1000 ticks are no timeout. -/
theorem test_feed_1000_ticks : after (.feed 0x10#8) (st .waitCmd 0x5B#8 0x01#8 0#8 0#8 [] true 1000#16) =
    some ((st .waitLen 0x6B#8 0x01#8 0x10#8 0#8 [] true 0#16).blk, ⟨.ok, {}, .phase .waitLen⟩) := by decide
/-- V-A7 (b): 1001 ticks are; the byte is then noise. -/
theorem test_feed_1001_ticks : after (.feed 0x10#8) (st .waitCmd 0x5B#8 0x01#8 0#8 0#8 [] true 1001#16) =
    some ((st .waitSync 0#8 0#8 0#8 0#8 [] true 0#16).blk,
      ⟨.ok, { timeout := true, noiseDrop := true }, .phase .waitSync⟩) := by decide
/-- V-A16: a tick in the FEED's own cycle is counted first. -/
theorem test_word_tick_before_feed : afterWord 0x510#12 (st .waitCmd 0x5B#8 0x01#8 0#8 0#8 [] true 1000#16) =
    some ((st .waitSync 0#8 0#8 0#8 0#8 [] true 0#16).blk,
      ⟨.ok, { timeout := true, noiseDrop := true }, .phase .waitSync⟩) := by decide
/-- V-A2: length 0 skips WAIT_DATA. -/
theorem test_feed_length_zero : after (.feed 0x00#8) (st .waitLen 0x6B#8 0x01#8 0x10#8 0#8 [] true 0#16) =
    some ((st .waitChecksum 0x6B#8 0x01#8 0x10#8 0#8 [] true 0#16).blk, ⟨.ok, {}, .phase .waitChecksum⟩) := by decide
/-- V-A2: the matching checksum stops the watchdog. -/
theorem test_feed_match : after (.feed 0x6B#8) (st .waitChecksum 0x6B#8 0x01#8 0x10#8 0#8 [] true 5#16) =
    some ((st .complete 0x6B#8 0x01#8 0x10#8 0#8 [] false 0#16).blk,
      ⟨.ok, { frameOk := true }, .phase .complete⟩) := by decide
/-- V-A5: a mismatching marker is not looked at again. -/
theorem test_feed_mismatch_marker : after (.feed 0x5A#8) (st .waitChecksum 0x6B#8 0x01#8 0x10#8 0#8 [] true 0#16) =
    some ((st .waitSync 0#8 0#8 0#8 0#8 [] true 0#16).blk, ⟨.ok, { chkFail := true }, .phase .waitSync⟩) := by decide
/-- V-A9: FEED in COMPLETE is dropped. -/
theorem test_feed_complete : after (.feed 0x5A#8) (st .complete 0x6B#8 0x01#8 0x10#8 0#8 [] false 0#16) =
    some ((st .complete 0x6B#8 0x01#8 0x10#8 0#8 [] false 0#16).blk,
      ⟨.ok, { completeDrop := true }, .phase .complete⟩) := by decide
/-- V-A3: 0x59 and 0x5B, the neighbours of the marker, are noise. -/
theorem test_feed_noise : after (.feed 0x59#8) State.reset =
    some ((st .waitSync 0#8 0#8 0#8 0#8 [] true 0#16).blk, ⟨.ok, { noiseDrop := true }, .phase .waitSync⟩) := by decide

/-! ## COLLECT, RESET, NOP, TICK, RST (V-C1 to V-C13, V-W1 to V-W11) -/

/-- V-C1. -/
theorem test_collect_complete :
    after .collect (st .complete 0xED#8 0x02#8 0x11#8 0x01#8 [0x7F#8] false 0#16) =
    some ((st .complete 0xED#8 0x02#8 0x11#8 0x01#8 [0x7F#8] false 0#16).blk,
      ⟨.ok, {}, .sdu (mkSdu 0x02#8 0x11#8 [0x7F#8])⟩) := by decide
/-- V-C7. -/
theorem test_collect_refused :
    after .collect (st .waitData 0x17#8 0x01#8 0x10#8 0x02#8 [0xAA#8] true 5#16) =
    some ((st .waitData 0x17#8 0x01#8 0x10#8 0x02#8 [0xAA#8] true 5#16).blk,
      ⟨.invalidState, { collectErr := true }, .nothing⟩) := by decide
/-- V-C4. -/
theorem test_reset_mid_frame :
    after .reset (st .waitData 0x17#8 0x01#8 0x10#8 0x02#8 [0xAA#8] true 5#16) =
    some (State.reset.blk, ⟨.ok, {}, .nothing⟩) := by decide
/-- V-C9. -/
theorem test_nop : after .nop (st .waitSync 0#8 0#8 0#8 0#8 [] true 4000#16) =
    some ((st .waitSync 0#8 0#8 0#8 0#8 [] true 4000#16).blk, Output.idle) := by decide
/-- V-W5: saturated. -/
theorem test_tick_saturated : after .tick (st .waitSync 0#8 0#8 0#8 0#8 [] true 65535#16) =
    some ((st .waitSync 0#8 0#8 0#8 0#8 [] true 65535#16).blk, Output.idle) := by decide
/-- V-W1: stopped, not counted. -/
theorem test_tick_stopped : after .tick State.reset = some (State.reset.blk, Output.idle) := by decide
/-- P1 row 0: RST overrides everything in its word. -/
theorem test_rst_word : afterWord 0xFFF#12 (st .complete 0x6B#8 0x01#8 0x10#8 0#8 [] false 0#16) =
    some (State.reset.blk, Output.idle) := by decide
/-- V-C11. -/
theorem test_outputs_complete :
    (let k := (st .complete 0x6B#8 0x01#8 0x10#8 0#8 [] false 0#16).blk
     (frameReady k, oSync k, oDst k, oCmd k, oLen k, oChk k, rdData k 0#8, oState k)) =
    (true, 0x5A#8, 0x01#8, 0x10#8, 0#8, 0x6B#8, 0#8, 6#3) := by decide
/-- V-C13. -/
theorem test_readout :
    (let k := (st .complete 0xD2#8 0x01#8 0x10#8 0x02#8 [0xAA#8, 0xBB#8] false 0#16).blk
     (rdData k 0#8, rdData k 1#8, rdData k 2#8, rdData k 255#8)) = (0xAA#8, 0xBB#8, 0#8, 0#8) := by decide
/-- V-W6, V-W8, V-W9, V-W10: the watchdog's own procedures. -/
theorem test_watchdog_procedures :
    (let k := (st .waitSync 0#8 0#8 0#8 0#8 [] true 437#16).blk
     ((wdStart k).wdRun, (wdStart k).wdCnt, (wdStop k).wdRun, (wdStop k).wdCnt, wdReset k == wdStop k, wdElapsed k)) =
    (true, 0#16, false, 437#16, true, 437#16) := by decide
/-- R202: the bits of the pulses. -/
theorem test_pulse_bits : Pulses.bits { timeout := true, noiseDrop := true } = 0x03#7 ∧
    Pulses.bits { collectErr := true } = 0x40#7 ∧ Pulses.bits { frameOk := true } = 0x10#7 := by decide
/-- R88: the codes of the responses. -/
theorem test_response_codes :
    [Response.none, .ok, .invalidState].map Response.code = [0b00#2, 0b01#2, 0b10#2] := by decide
/-- R200: E1 to E4, and the pulse each sets. -/
theorem test_error_kinds :
    [ErrorKind.resyncOnGarbage, .checksumMismatch, .timeoutStall, .collectBeforeComplete].map ErrorKind.code =
      [1, 2, 3, 4] ∧
    Pulses.reports { timeout := true, noiseDrop := true } .timeoutStall = true ∧
    Pulses.reports { timeout := true, noiseDrop := true } .checksumMismatch = false := by decide

/-! ## Frame Model and Analyzer (V-M1 to V-M10, V-Z5, V-Z6) -/

/-- V-M4: a checksum equal to the marker. -/
theorem test_encode_marker_checksum : encodeFrame 0xFF#8 0xFF#8 [0x80#8, 0x80#8] =
    some [0x5A#8, 0xFF#8, 0xFF#8, 0x02#8, 0x80#8, 0x80#8, 0x5A#8] := by decide
/-- V-M3. -/
theorem test_encode_two_bytes : encodeFrame 0x01#8 0x10#8 [0xAA#8, 0xBB#8] =
    some [0x5A#8, 0x01#8, 0x10#8, 0x02#8, 0xAA#8, 0xBB#8, 0xD2#8] := by decide
/-- V-M refusal: 256 payload bytes have no encoding. -/
theorem test_encode_256_refused : encodeFrame 0x00#8 0x00#8 (List.replicate 256 0x00#8) = none := by
  simp [encodeFrame, Config.maxPayload, -List.reduceReplicate]
/-- Section 2: order matters to SDU equality although the checksums agree. -/
theorem test_sdu_order_matters :
    Sdu.equal (mkSdu 0x01#8 0x10#8 [0xAA#8, 0xBB#8]) (mkSdu 0x01#8 0x10#8 [0xBB#8, 0xAA#8]) = false := by decide
/-- V-Z6. -/
theorem test_abyte_completes : abyte 0x6B#8 (st .waitChecksum 0x6B#8 0x01#8 0x10#8 0#8 [] true 0#16).blk =
    (State.reset.blk, some (mkSdu 0x01#8 0x10#8 [])) := by decide
/-- V-Z5: started in COMPLETE, the byte is dropped and the waiting frame handed out. -/
theorem test_abyte_in_complete : abyte 0x5A#8 (st .complete 0x6B#8 0x01#8 0x10#8 0#8 [] false 0#16).blk =
    (State.reset.blk, some (mkSdu 0x01#8 0x10#8 [])) := by decide

/-! ## Witnesses: the hypotheses of the statements can be met -/

/-- WAIT_CMD with a header byte received, `n` ticks ago. -/
def midCmd (n : TickCount) : State := st .waitCmd 0x5B#8 0x01#8 0#8 0#8 [] true n

/-- WAIT_DATA with one of two payload bytes received. -/
def midData (n : TickCount) : State := st .waitData 0x17#8 0x01#8 0x10#8 0x02#8 [0xAA#8] true n

/-- A completed frame with one payload byte. -/
def done : State := st .complete 0xED#8 0x02#8 0x11#8 0x01#8 [0x7F#8] false 0#16

/-- WAIT_SYNC, three ticks after a dropped noise byte. -/
def listening : State := st .waitSync 0#8 0#8 0#8 0#8 [] true 3#16

theorem listening_inv : listening.Inv := by
  constructor <;> decide

theorem midCmd_inv (n : TickCount) : (midCmd n).Inv := by
  constructor
  · exact fun h => by cases h
  · have h : (midCmd 0#16).blk.countInBounds := by decide
    exact h
  · have h : (midCmd 0#16).blk.accumulatorRight := by decide
    exact h
  · exact ⟨fun _ => rfl, fun h => (by cases h), fun h => (by cases h)⟩
  · have h : (midCmd 0#16).blk.bufferRight := by decide
    exact h

theorem midData_inv (n : TickCount) : (midData n).Inv := by
  constructor
  · exact fun h => by cases h
  · have h : (midData 0#16).blk.countInBounds := by decide
    exact h
  · have h : (midData 0#16).blk.accumulatorRight := by decide
    exact h
  · exact ⟨fun _ => rfl, fun h => (by cases h), fun h => (by cases h)⟩
  · have h : (midData 0#16).blk.bufferRight := by decide
    exact h

theorem done_inv : done.Inv := by
  constructor <;> decide

theorem witness_rst_overrides :
    ({ midCmd 7#16 with inputs := [0xFFF#12] } : State).inputs = 0xFFF#12 :: [] ∧ (0xFFF#12).getLsbD 11 = true := by decide

theorem witness_reset_and_rst_answer :
    ∃ t u, exec .reset (midData 5#16) = .next t ∧ exec .rst (midData 5#16) = .next u := ⟨_, _, rfl, rfl⟩

theorem witness_nop_words : (0x4FF#12).getLsbD 11 = false ∧ (0x4FF#12).extractLsb' 8 2 = 0b00#2 ∧
    (0x4FF#12).getLsbD 10 = true ∧ (0x000#12).getLsbD 10 = false := by decide

theorem witness_running_watchdog : (midCmd 65534#16).blk.wdRun = true := rfl

/-- Both sides of the threshold: a gap of any number of ticks after a byte that does not complete a frame. -/
theorem witness_gap_after_byte (n : Nat) : ∃ t u v,
    (midCmd 3#16).blk.state ≠ .complete ∧ exec (.feed 0x10#8) (midCmd 3#16) = .next t ∧ t.blk.state ≠ .complete ∧
    (ticks n).all passing = true ∧ runEvents (ticks n) t = .next u ∧ exec (.feed 0x5A#8) u = .next v := by
  obtain ⟨t, ht⟩ := exec_spec (.feed 0x10#8) (midCmd 3#16)
  obtain ⟨u, hu, -⟩ := runEvents_spec (ticks n)
    { midCmd 3#16 with blk := blockAfter (.feed 0x10#8) (midCmd 3#16).blk, out := t }
  refine ⟨_, u, _, by decide, ht, ?_, ?_, hu, rfl⟩
  · show (blockAfter (.feed 0x10#8) (midCmd 3#16).blk).state ≠ .complete
    decide
  · simp [ticks, passing, -List.reduceReplicate]

theorem witness_timed_out : (midCmd 1001#16).blk.state ≠ .complete ∧ 1000 < (midCmd 1001#16).blk.wdCnt.toNat ∧
    (0x10#8 : Byte) ≠ Config.sync ∧ (0x5A#8 : Byte) = Config.sync := by decide

theorem witness_each_state_in_time :
    (State.reset.blk.state = .waitSync ∧ State.reset.blk.wdCnt.toNat ≤ 1000) ∧
    (let s := st .waitDst 0x5A#8 0#8 0#8 0#8 [] true 1000#16; s.blk.state = .waitDst ∧ s.blk.wdCnt.toNat ≤ 1000) ∧
    ((midCmd 1000#16).blk.state = .waitCmd ∧ (midCmd 1000#16).blk.wdCnt.toNat ≤ 1000) ∧
    (let s := st .waitLen 0x6B#8 0x01#8 0x10#8 0#8 [] true 1000#16; s.blk.state = .waitLen ∧ s.blk.wdCnt.toNat ≤ 1000) ∧
    (let s := st .waitChecksum 0x6B#8 0x01#8 0x10#8 0#8 [] true 1000#16
     s.blk.state = .waitChecksum ∧ s.blk.wdCnt.toNat ≤ 1000 ∧ 0x6B#8 = s.blk.chk ∧ 0x6C#8 ≠ s.blk.chk) ∧
    0 < (255#8 : Byte).toNat ∧ (0#8 : Byte).toNat = 0 := by decide

theorem witness_wait_data : (midData 1000#16).Inv ∧ (midData 1000#16).blk.state = .waitData ∧
    (midData 1000#16).blk.wdCnt.toNat ≤ 1000 := ⟨midData_inv _, by decide, by decide⟩

theorem witness_held_frame : done.Inv ∧ done.blk.state = .complete ∧
    (∀ e ∈ [Instr.feed 0x5A#8, .tick, .nop, .collect], e ≠ .reset ∧ e ≠ .rst) := ⟨done_inv, by decide, by decide⟩

/-- Every row of the transition table applies somewhere. -/
theorem witness_table_rows :
    (∃ k', FeedRow 0x5A#8 (midCmd 1001#16).blk k') ∧ (∃ k', FeedRow 0x10#8 (midCmd 1001#16).blk k') ∧
    (∃ k', FeedRow 0x00#8 State.reset.blk k') ∧ (∃ k', FeedRow 0x5A#8 State.reset.blk k') ∧
    (∃ k', FeedRow 0x01#8 (st .waitDst 0x5A#8 0#8 0#8 0#8 [] true 0#16).blk k') ∧
    (∃ k', FeedRow 0x10#8 (midCmd 1000#16).blk k') ∧
    (∃ k', FeedRow 0x02#8 (st .waitLen 0x6B#8 0x01#8 0x10#8 0#8 [] true 0#16).blk k') ∧
    (∃ k', FeedRow 0x00#8 (st .waitLen 0x6B#8 0x01#8 0x10#8 0#8 [] true 0#16).blk k') ∧
    (∃ k', FeedRow 0xAA#8 (st .waitData 0x6D#8 0x01#8 0x10#8 0x02#8 [] true 0#16).blk k') ∧
    (∃ k', FeedRow 0xBB#8 (midData 0#16).blk k') ∧
    (∃ k', FeedRow 0x6B#8 (st .waitChecksum 0x6B#8 0x01#8 0x10#8 0#8 [] true 0#16).blk k') ∧
    (∃ k', FeedRow 0x6C#8 (st .waitChecksum 0x6B#8 0x01#8 0x10#8 0#8 [] true 0#16).blk k') ∧
    (∃ k', FeedRow 0x5A#8 done.blk k') :=
  ⟨⟨_, .timeoutMarker (by decide) (by decide) rfl⟩, ⟨_, .timeoutNoise (by decide) (by decide) (by decide)⟩,
    ⟨_, .noise rfl (by decide) (by decide)⟩, ⟨_, .marker rfl (by decide) rfl⟩, ⟨_, .destination rfl (by decide)⟩,
    ⟨_, .command rfl (by decide)⟩, ⟨_, .lengthPositive rfl (by decide) (by decide)⟩,
    ⟨_, .lengthZero rfl (by decide) (by decide)⟩, ⟨_, .dataMore rfl (by decide) (by decide)⟩,
    ⟨_, .dataLast rfl (by decide) (by decide)⟩, ⟨_, .checksumMatch rfl (by decide) rfl⟩,
    ⟨_, .checksumMismatch rfl (by decide) (by decide)⟩, ⟨_, .hold rfl⟩⟩

theorem witness_resynchronising_feeds :
    (∃ t, exec (.feed 0x5A#8) (midCmd 1001#16) = .next t ∧ t.out.ev.timeout = true) ∧
    (∃ t, exec (.feed 0x6C#8) (st .waitChecksum 0x6B#8 0x01#8 0x10#8 0#8 [] true 0#16) = .next t ∧
      t.out.ev.chkFail = true) := ⟨⟨_, rfl, by decide⟩, ⟨_, rfl, by decide⟩⟩

theorem witness_collect : done.blk.state = .complete ∧ done.Inv ∧ (midData 5#16).blk.state ≠ .complete ∧
    (∃ t, exec .collect done = .next t) ∧ (0 : Nat) < (oLen done.blk).toNat ∧ (oLen done.blk).toNat ≤ 255 :=
  ⟨rfl, done_inv, by decide, ⟨_, exec_collect_complete _ rfl⟩, by decide, by decide⟩

/-- Both sides of `rd_idx < cnt`. -/
theorem witness_readout_bounds : (0#8 : Byte).toNat < done.blk.cnt.toNat ∧ done.blk.cnt.toNat ≤ (1#8 : Byte).toNat := by
  decide

theorem witness_step_keeps_inv : ∃ t, ({ midData 3#16 with inputs := [0x5BB#12] } : State).Inv ∧
    step { midData 3#16 with inputs := [0x5BB#12] } = .next t := ⟨_, midData_inv _, rfl⟩

theorem witness_reachable : Reachable State.reset ∧ State.reset.blk.wdRun = false ∧ State.reset.blk.state = .waitSync ∧
    Reachable { st .waitSync 0#8 0#8 0#8 0#8 [] true 0#16 with out := ⟨.ok, { noiseDrop := true }, .phase .waitSync⟩ } :=
  ⟨⟨[], [], rfl⟩, rfl, rfl, ⟨[], [.feed 0x00#8], rfl⟩⟩

theorem witness_words : (0x800#12).getLsbD 11 = true ∧
    ((0x15A#12).getLsbD 11 = false ∧ (0x15A#12).getLsbD 10 = false ∧ decode 0x15A#12 = .feed 0x5A#8) ∧
    ((0x55A#12).getLsbD 11 = false ∧ (0x55A#12).getLsbD 10 = true ∧ decode 0x55A#12 = .feed 0x5A#8 ∧
      decode 0x55A#12 ≠ .tick ∧ decode 0x55A#12 ≠ .rst) ∧ decode 0x400#12 = .tick ∧
    ({ State.reset with inputs := [0x55A#12, 0x200#12] } : State).inputs = 0x55A#12 :: [0x200#12] ∧
    State.reset.inputs = [] := by decide

theorem witness_ignored_bits : ((0x800#12).getLsbD 11 = true ∧ (0xFFF#12).getLsbD 11 = true) ∧
    ((0x200#12).extractLsb' 8 4 = (0x2FF#12).extractLsb' 8 4 ∧ (0x200#12).extractLsb' 8 2 ≠ 0b01#2) := by decide

theorem witness_cycles : cycleWellFormed [.rst] = true ∧ cycleWellFormed [.collect] = true ∧
    cycleWellFormed [.tick, .feed 0xFF#8] = true ∧ Instr.wellFormed (.feed 0xFF#8) = true := by decide

theorem witness_payload_lengths : (List.replicate 255 0xFF#8).length ≤ 255 ∧ ([] : List Byte).length ≤ 255 ∧
    255 < (List.replicate 256 0xFF#8).length := by simp [-List.reduceReplicate]

/-- Every boundary of a header and payload fed after the marker, from WAIT_SYNC. -/
theorem witness_fed_prefixes : listening.Inv ∧ listening.blk.state = .waitSync ∧ ([0x7F#8] : List Byte).length ≤ 255 ∧
    (∀ n ≤ 4, [0x02#8, 0x11#8, BitVec.ofNat 8 1] ++ [0x7F#8] =
      [0x02#8, 0x11#8, 0x01#8, 0x7F#8].take n ++ [0x02#8, 0x11#8, 0x01#8, 0x7F#8].drop n) :=
  ⟨listening_inv, rfl, by decide, by decide⟩

theorem witness_sdus : Sdu.wellFormed (mkSdu 0x01#8 0x10#8 []) = true ∧
    Sdu.wellFormed (mkSdu 0x01#8 0x10#8 [0x00#8]) = true := by decide

/-- The delivery of a frame: any silence before the first byte, 1000 ticks before each other one. -/
def slowDelivery : List (List Instr × Byte) :=
  [(ticks 2000, 0x5A#8), (ticks 1000, 0x01#8), (.nop :: ticks 1000, 0x10#8), (.collect :: ticks 999, 0x00#8),
    ([], 0x6B#8)]

theorem witness_delivery : ({ midCmd 0#16 with blk := State.reset.blk } : State).blk = State.reset.blk ∧ encodeFrame 0x01#8 0x10#8 [] = some (slowDelivery.map Prod.snd) ∧
    (∀ g ∈ slowDelivery.map Prod.fst, g.all passing = true) ∧
    (∀ g ∈ (slowDelivery.map Prod.fst).tail, shortGap g = true) ∧
    (∃ before after, spaced slowDelivery = before ++ after ∧ after ≠ []) := by
  refine ⟨rfl, by decide, ?_, ?_, ⟨[], _, rfl, ?_⟩⟩
  · simp [slowDelivery, ticks, passing, -List.reduceReplicate]
  · simp [slowDelivery, ticks, passing, shortGap, tickCount, Config.timeoutTicks, -List.reduceReplicate]
  · simp [spaced, -List.reduceReplicate]

theorem witness_frames_in_noise : (∀ it ∈ [([0x12#8, 0x34#8], mkSdu 0x01#8 0x10#8 []), ([], mkSdu 0x02#8 0x11#8 [0x7F#8])],
    Config.sync ∉ it.1 ∧ Sdu.wellFormed it.2 = true) ∧ listening.blk.Inv ∧ listening.blk.state = .waitSync :=
  ⟨by decide, listening_inv, rfl⟩

/-- Each kind of byte the corruption statement covers: destination, command, payload, checksum. -/
theorem witness_corruptions : listening.blk.Inv ∧ listening.blk.state = .waitSync ∧
    encodeFrame 0x02#8 0x11#8 [0x7F#8] = some [0x5A#8, 0x02#8, 0x11#8, 0x01#8, 0x7F#8, 0xED#8] ∧
    (∀ j ∈ [1, 2, 4, 5], j < 6 ∧ j ≠ 0 ∧ j ≠ 3 ∧
      [0x5A#8, 0x02#8, 0x11#8, 0x01#8, 0x7F#8, 0xED#8][j]? ≠ some 0x00#8) :=
  ⟨listening_inv, rfl, by decide, by decide⟩

theorem witness_silence : (midCmd 0#16).Inv ∧ (midCmd 0#16).blk.state.midFrame = true ∧ (ticks 1001).all passing = true ∧
    1000 < tickCount (ticks 1001) ∧ encodeFrame 0x01#8 0x10#8 [] = some [0x5A#8, 0x01#8, 0x10#8, 0x00#8, 0x6B#8] := by
  refine ⟨midCmd_inv _, rfl, ?_, ?_, by decide⟩
  · simp [ticks, passing, -List.reduceReplicate]
  · simp [ticks, tickCount, -List.reduceReplicate]

/-- A run that holds a frame and goes on while the frame waits. -/
theorem witness_fed_frame : ∃ t,
    runEvents (feeds [0x5A#8, 0x01#8, 0x10#8, 0x00#8, 0x6B#8] ++ [.tick, .feed 0x5A#8]) State.reset = .next t ∧
    t.blk.state = .complete := ⟨_, rfl, by decide⟩

theorem witness_chunk_outside_complete : (midCmd 0#16).blk.state ≠ .complete ∧ done.blk.state = .complete := by decide

end Sys2Proof.Tests
end

/-! PROOF. The two invariants of 10_state.md section 9 that need nothing beside themselves: a WAIT_SYNC block is clear
(R40), and a stopped watchdog reads 0 (R48). Each is kept by every event; an obligation follows from each. -/

namespace Sys2Proof.Machine

/-! ## Induction over the reachable blocks -/

/-- What holds of the block at reset and is kept by every event holds of every reachable block (R8, R37). -/
theorem Reachable.blk_induction {P : Block → Prop} (hreset : P Block.reset)
    (hevent : ∀ (i : Instr) (k : Block), P k → P (blockAfter i k)) {s : State} (hs : Reachable s) : P s.blk := by
  obtain ⟨inputs, es, hrun⟩ := hs
  obtain ⟨t, ht, hblk, -⟩ := runEvents_spec es { State.reset with inputs := inputs }
  cases hrun.symm.trans ht
  rw [hblk]
  exact List.foldlRecOn es _ hreset fun k hk i _ => hevent i k hk

/-! ## WAIT_SYNC is clear -/

/-- R40 as one equation, the buffer included: AsmClear changes nothing in WAIT_SYNC. -/
def AsmClearFixesWaitSync (k : Block) : Prop := k.state = .waitSync → asmClear k = k

/-- A block that AsmClear does not change has every register that AsmClear clears at 0 (R121). -/
theorem registers_zero_of_asmClear {k : Block} (h : asmClear k = k) :
    k.chk = 0#8 ∧ k.dst = 0#8 ∧ k.cmd = 0#8 ∧ k.len = 0#8 ∧ k.cnt = 0#8 := by
  rw [← h]
  exact ⟨rfl, rfl, rfl, rfl, rfl⟩

/-- AsmClear leaves the watchdog alone, so a block it does not change may have any watchdog (R121). -/
theorem asmClear_setWatchdog {k : Block} (h : asmClear k = k) (run : Bool) (n : TickCount) :
    asmClear { k with wdRun := run, wdCnt := n } = { k with wdRun := run, wdCnt := n } :=
  congrArg (fun j : Block => { j with wdRun := run, wdCnt := n }) h

/-- A FEED ends in WAIT_SYNC in two ways only: noise in WAIT_SYNC, or a resynchronisation without a marker. -/
theorem feedBlock_waitSync_inv {b : Byte} {k : Block} (hs : (feedBlock b k).1.state = .waitSync) :
    (k.state = .waitSync ∧ (feedBlock b k).1 = wdStart k) ∨
      (feedBlock b k).1 = { Block.reset with wdRun := true } := by
  rcases feedBlock_cases b k with ⟨hk, h⟩ | ⟨-, -, -, h⟩ | ⟨-, -, -, h⟩ | ⟨-, -, -, h⟩ | ⟨-, hk, -, h⟩ | ⟨-, -, h⟩ |
    ⟨-, -, h⟩ | ⟨-, -, h⟩ | ⟨-, -, h⟩ | ⟨-, -, -, h⟩ | ⟨-, -, -, h⟩ <;> rw [h] at hs ⊢
  case inl => exact nomatch hk.symm.trans hs
  · cases hs
  · exact .inr rfl
  · cases hs
  · exact .inl ⟨hk, rfl⟩
  · cases hs
  · cases hs
  · dsimp only at hs; split at hs <;> cases hs
  · dsimp only at hs; split at hs <;> cases hs
  · cases hs
  · exact .inr rfl

theorem asmClearFixesWaitSync_blockAfter (i : Instr) (k : Block) (hk : AsmClearFixesWaitSync k) :
    AsmClearFixesWaitSync (blockAfter i k) := by
  cases i with
  | rst => exact fun _ => rfl
  | tick =>
    intro hw
    have hclear := hk ((wdTick_state k).symm.trans hw)
    show asmClear (wdTick k) = wdTick k
    unfold wdTick
    split
    · exact asmClear_setWatchdog hclear k.wdRun (tickNext k.wdCnt)
    · exact hclear
  | nop => exact hk
  | feed b =>
    intro hw
    show asmClear (feedBlock b k).1 = (feedBlock b k).1
    obtain ⟨hwait, h⟩ | h := feedBlock_waitSync_inv hw <;> rw [h]
    · exact asmClear_setWatchdog (hk hwait) true 0#16
    · rfl
  | collect => exact hk
  | reset => exact fun _ => rfl

theorem Reachable.asmClearFixesWaitSync {s : State} (hs : Reachable s) : AsmClearFixesWaitSync s.blk :=
  hs.blk_induction (fun _ => rfl) asmClearFixesWaitSync_blockAfter

/-- FEED in a clear WAIT_SYNC block: with or without a timeout, the byte is dispatched with the watchdog restarted. -/
theorem feedBlock_of_clear {b : Byte} {k : Block} (hw : k.state = .waitSync) (hclear : asmClear k = k) :
    (feedBlock b k).1 = (feedWaitSync b (wdStart k)).1 := by
  have hc : k.state ≠ .complete := by simp [hw]
  cases ht : timedOut k with
  | true => rw [feedBlock_timeout b k hc ht, hclear]
  | false => rw [feedBlock_dispatch b k hc ht, feedDispatch_waitSync b (wdStart k) hw]

/-- Settles O34: AsmClear fixes every reachable WAIT_SYNC block, so a FEED there dispatches alike from every count. -/
theorem timeoutInWaitSyncChangesNothing : Obligations.TimeoutInWaitSyncChangesNothing := by
  intro s hs hw
  have hclear : asmClear s.blk = s.blk := hs.asmClearFixesWaitSync hw
  obtain ⟨hchk, hdst, hcmd, hlen, hcnt⟩ := registers_zero_of_asmClear hclear
  refine ⟨hchk, hdst, hcmd, hlen, hcnt, hclear, fun b n t u ht hu => ?_⟩
  have hclear' := asmClear_setWatchdog hclear s.blk.wdRun n
  calc u.blk = (feedBlock b { s.blk with wdCnt := n }).1 := (exec_inv hu).1
    _ = (feedWaitSync b (wdStart { s.blk with wdCnt := n })).1 := feedBlock_of_clear hw hclear'
    _ = (feedWaitSync b (wdStart s.blk)).1 := rfl
    _ = (feedBlock b s.blk).1 := (feedBlock_of_clear hw hclear).symm
    _ = t.blk := (exec_inv ht).1.symm

/-! ## A stopped watchdog reads 0 -/

/-- R48: a stopped watchdog reads 0. -/
def ZeroWhenStopped (k : Block) : Prop := k.wdRun = false → k.wdCnt = 0#16

/-- A FEED outside COMPLETE restarts the count, and leaves the watchdog running unless it completes a frame
(R123, R129). -/
theorem feedBlock_watchdog (b : Byte) {k : Block} (hk : k.state ≠ .complete) :
    (feedBlock b k).1.wdCnt = 0#16 ∧
      ((feedBlock b k).1.wdRun = false → (feedBlock b k).1.state = .complete) := by
  rcases feedBlock_cases b k with ⟨hc, -⟩ | ⟨-, -, -, h⟩ | ⟨-, -, -, h⟩ | ⟨-, -, -, h⟩ | ⟨-, -, -, h⟩ | ⟨-, -, h⟩ |
    ⟨-, -, h⟩ | ⟨-, -, h⟩ | ⟨-, -, h⟩ | ⟨-, -, -, h⟩ | ⟨-, -, -, h⟩
  case inl => exact absurd hc hk
  all_goals simp [h]

/-- The timeout pulse of a FEED comes from the timeout test only (R122, R202). -/
theorem feedBlock_noTimeout {b : Byte} {k : Block} (ht : timedOut k = false) : (feedBlock b k).2.timeout = false := by
  rcases feedBlock_cases b k with ⟨-, h⟩ | ⟨-, ht', -⟩ | ⟨-, ht', -⟩ | ⟨-, -, -, h⟩ | ⟨-, -, -, h⟩ | ⟨-, -, h⟩ |
    ⟨-, -, h⟩ | ⟨-, -, h⟩ | ⟨-, -, h⟩ | ⟨-, -, -, h⟩ | ⟨-, -, -, h⟩
  case inr.inl | inr.inr.inl => exact absurd ht' (by simp [ht])
  all_goals rw [h]

/-- A TICK does not count in a stopped watchdog (R184). -/
theorem wdTick_of_stopped {k : Block} (hrun : k.wdRun = false) : wdTick k = k := by
  simp [wdTick, hrun]

theorem zeroWhenStopped_blockAfter (i : Instr) (k : Block) (hk : ZeroWhenStopped k) :
    ZeroWhenStopped (blockAfter i k) := by
  cases i with
  | rst => exact fun _ => rfl
  | tick =>
    intro hrun
    have hstopped : k.wdRun = false := (wdTick_wdRun k).symm.trans hrun
    show (wdTick k).wdCnt = 0#16
    rw [wdTick_of_stopped hstopped]
    exact hk hstopped
  | nop => exact hk
  | feed b =>
    by_cases hc : k.state = .complete
    · simpa only [blockAfter, feedBlock_complete b k hc] using hk
    · exact fun _ => (feedBlock_watchdog b hc).1
  | collect => exact hk
  | reset => exact fun _ => rfl

theorem Reachable.zeroWhenStopped {s : State} (hs : Reachable s) : ZeroWhenStopped s.blk :=
  hs.blk_induction (fun _ => rfl) zeroWhenStopped_blockAfter

/-- From every state, only RST, RESET and the FEED that completes a frame stop a running watchdog (R48). -/
theorem stop_cause_of_running {i : Instr} {k : Block} (hrun : k.wdRun = true)
    (hstop : (blockAfter i k).wdRun = false) :
    i = .rst ∨ i = .reset ∨ ∃ b, i = .feed b ∧ k.state ≠ .complete ∧ (blockAfter i k).state = .complete := by
  have hchange : (blockAfter i k).wdRun ≠ k.wdRun := by simp [hrun, hstop]
  cases i with
  | rst => exact .inl rfl
  | tick => exact absurd (wdTick_wdRun k) hchange
  | nop => exact absurd rfl hchange
  | feed b =>
    have hc : k.state ≠ .complete := fun hc => hchange (by rw [blockAfter, feedBlock_complete b k hc])
    exact .inr (.inr ⟨b, rfl, hc, (feedBlock_watchdog b hc).2 hstop⟩)
  | collect => exact absurd rfl hchange
  | reset => exact .inr (.inl rfl)

/-- Settles O35: `ZeroWhenStopped` holds of every reachable block, and a count of 0 is below the threshold. -/
theorem stoppedWatchdogReadsZero : Obligations.StoppedWatchdogReadsZero := by
  intro s hs
  refine ⟨fun hstopped => ?_, fun i t ht hrun hstop => ?_⟩
  · have hzero : s.blk.wdCnt = 0#16 := hs.zeroWhenStopped hstopped
    have hno : timedOut s.blk = false := by rw [timedOut, wdElapsed, hzero]; rfl
    refine ⟨hzero, hzero, fun t ht => (exec_inv ht).1.trans (wdTick_of_stopped hstopped), fun b t ht => ?_⟩
    cases (exec_feed b s).symm.trans ht
    exact feedBlock_noTimeout hno
  · have hblk := (exec_inv ht).1
    rw [hblk] at hstop ⊢
    exact stop_cause_of_running hrun hstop

end Sys2Proof.Machine

/-! PROOF. Reading a cycle word (30_encoding.md sections 1 to 3): the events a word stands for, by its fields; the rows of
the opcode table, as conditions on the same fields; that the two agree; and what a cycle runs. -/

namespace Sys2Proof

/-! ## The operation a word names -/

theorem decodeOp_isOperation (w : CycleWord) : (decodeOp w).isOperation = true := by
  unfold decodeOp
  split_ifs <;> rfl

theorem opCode_decodeOp (w : CycleWord) : opCode (decodeOp w) = opField w := by
  have hcodes : ∀ c : OpCode, c = 0b00#2 ∨ c = 0b01#2 ∨ c = 0b10#2 ∨ c = 0b11#2 := by decide
  rcases hcodes (opField w) with h | h | h | h <;> simp [decodeOp, opCode, h]

theorem byte_of_decodeOp_feed {w : CycleWord} {b : Byte} (h : decodeOp w = .feed b) : b = dinField w := by
  unfold decodeOp at h
  split_ifs at h
  exact (Instr.feed.inj h).symm

/-- A word names an operation exactly when `op` holds its code and, for FEED, `din` holds its byte (R77, R80). -/
theorem decodeOp_eq_iff {i : Instr} (hi : i.isOperation = true) (w : CycleWord) :
    decodeOp w = i ↔ opField w = opCode i ∧ ∀ b, i = .feed b → b = dinField w := by
  constructor
  · rintro rfl
    exact ⟨(opCode_decodeOp w).symm, fun _ => byte_of_decodeOp_feed⟩
  · rintro ⟨hop, hdin⟩
    cases i with
    | rst => cases hi
    | tick => cases hi
    | nop => simp [decodeOp, hop, opCode]
    | feed b => simp [decodeOp, hop, opCode, hdin b rfl]
    | collect => simp [decodeOp, hop, opCode]
    | reset => simp [decodeOp, hop, opCode]

/-! ## The events of a word, by its bits (R78) -/

theorem decodeEvents_of_rst {w : CycleWord} (hr : rstBit w = true) : decodeEvents w = [.rst] := by
  simp [decodeEvents, hr]

theorem decodeEvents_of_tick {w : CycleWord} (hr : rstBit w = false) (ht : tickBit w = true) :
    decodeEvents w = [.tick, decodeOp w] := by
  simp [decodeEvents, hr, ht]

theorem decodeEvents_of_noTick {w : CycleWord} (hr : rstBit w = false) (ht : tickBit w = false) :
    decodeEvents w = [decodeOp w] := by
  simp [decodeEvents, hr, ht]

/-- An event is among those of a word as RST alone, or without RST as the tick or as the operation. -/
theorem mem_decodeEvents (i : Instr) (w : CycleWord) :
    i ∈ decodeEvents w ↔ rstBit w = true ∧ i = .rst ∨
      rstBit w = false ∧ (tickBit w = true ∧ i = .tick ∨ decodeOp w = i) := by
  cases hr : rstBit w with
  | true => simp [decodeEvents_of_rst hr]
  | false =>
    cases ht : tickBit w with
    | true => simp [decodeEvents_of_tick hr ht, eq_comm]
    | false => simp [decodeEvents_of_noTick hr ht, eq_comm]

theorem decodeOp_ne_of_not_operation (i : Instr) (hi : i.isOperation = false) (w : CycleWord) : decodeOp w ≠ i := by
  rintro rfl
  simp [decodeOp_isOperation] at hi

theorem rst_mem_decodeEvents (w : CycleWord) : .rst ∈ decodeEvents w ↔ rstBit w = true := by
  simp [mem_decodeEvents, decodeOp_ne_of_not_operation .rst rfl w]

theorem tick_mem_decodeEvents (w : CycleWord) :
    .tick ∈ decodeEvents w ↔ rstBit w = false ∧ tickBit w = true := by
  simp [mem_decodeEvents, decodeOp_ne_of_not_operation .tick rfl w]

theorem operation_mem_decodeEvents {i : Instr} (hi : i.isOperation = true) (w : CycleWord) :
    i ∈ decodeEvents w ↔ rstBit w = false ∧ opField w = opCode i ∧ ∀ b, i = .feed b → b = dinField w := by
  have hrst : i ≠ .rst := by rintro rfl; cases hi
  have htick : i ≠ .tick := by rintro rfl; cases hi
  simp [mem_decodeEvents, hrst, htick, decodeOp_eq_iff hi]

theorem cycleWellFormed_operation {i : Instr} (hi : i.isOperation = true) : cycleWellFormed [i] = true := by
  cases i with
  | rst | tick => cases hi
  | nop | feed _ | collect | reset => rfl

/-- The events of every word form a legal cycle (R78, R87). -/
theorem cycleWellFormed_decodeEvents (w : CycleWord) : cycleWellFormed (decodeEvents w) = true := by
  have hop := decodeOp_isOperation w
  cases hr : rstBit w with
  | true => rw [decodeEvents_of_rst hr]; rfl
  | false =>
    cases ht : tickBit w with
    | true => rw [decodeEvents_of_tick hr ht]; exact hop
    | false => rw [decodeEvents_of_noTick hr ht]; exact cycleWellFormed_operation hop

/-! ## The rows of the opcode table, by the fields of the word (R79) -/

theorem rstBit_and (w v : CycleWord) : rstBit (w &&& v) = (rstBit w && rstBit v) := BitVec.getLsbD_and

theorem tickBit_and (w v : CycleWord) : tickBit (w &&& v) = (tickBit w && tickBit v) := BitVec.getLsbD_and

theorem opField_and (w v : CycleWord) : opField (w &&& v) = opField w &&& opField v := BitVec.extractLsb'_and

theorem dinField_and (w v : CycleWord) : dinField (w &&& v) = dinField w &&& dinField v := BitVec.extractLsb'_and

theorem eq_iff_fields (w v : CycleWord) :
    w = v ↔ rstBit w = rstBit v ∧ tickBit w = tickBit v ∧ opField w = opField v ∧ dinField w = dinField v := by
  constructor
  · rintro rfl
    exact ⟨rfl, rfl, rfl, rfl⟩
  · rintro ⟨hrst, htick, hop, hdin⟩
    rw [← cycleWord_fields w, ← cycleWord_fields v, hrst, htick, hop, hdin]

/-- A mask over the control bits compares the control bits it selects; `din` is left out. -/
theorem and_controlMask_eq_iff (w : CycleWord) (rstMask tickMask rst tick : Bool) (opMask op : OpCode) :
    w &&& cycleWord rstMask tickMask opMask 0x00#8 = cycleWord rst tick op 0x00#8 ↔
      (rstBit w && rstMask) = rst ∧ (tickBit w && tickMask) = tick ∧ opField w &&& opMask = op := by
  simp [eq_iff_fields, rstBit_and, tickBit_and, opField_and, dinField_and, rstBit_cycleWord, tickBit_cycleWord,
    opField_cycleWord, dinField_cycleWord]

open Laws.EncodesRow (rowMask rowMatch)

theorem matches_rst_row (w : CycleWord) : w &&& rowMask .rst = rowMatch .rst ↔ rstBit w = true := by
  have hmask : rowMask .rst = cycleWord true false 0b00#2 0x00#8 := by decide
  have hmatch : rowMatch .rst = cycleWord true false 0b00#2 0x00#8 := by decide
  simp [hmask, hmatch, and_controlMask_eq_iff]

theorem matches_tick_row (w : CycleWord) :
    w &&& rowMask .tick = rowMatch .tick ↔ rstBit w = false ∧ tickBit w = true := by
  have hmask : rowMask .tick = cycleWord true true 0b00#2 0x00#8 := by decide
  have hmatch : rowMatch .tick = cycleWord false true 0b00#2 0x00#8 := by decide
  simp [hmask, hmatch, and_controlMask_eq_iff]

/-- The four operation rows have one mask, over `rst` and `op`, and each matches its operation's code. -/
theorem operation_row_fields {i : Instr} (hi : i.isOperation = true) :
    rowMask i = cycleWord true false 0b11#2 0x00#8 ∧ rowMatch i = cycleWord false false (opCode i) 0x00#8 := by
  cases i with
  | rst | tick => cases hi
  | nop | feed _ | collect | reset => constructor <;> simp [rowMask, rowMatch, opCode, cycleWord]

theorem matches_operation_row {i : Instr} (hi : i.isOperation = true) (w : CycleWord) :
    w &&& rowMask i = rowMatch i ↔ rstBit w = false ∧ opField w = opCode i := by
  obtain ⟨hmask, hmatch⟩ := operation_row_fields hi
  have hop : opField w &&& 0b11#2 = opField w := BitVec.and_allOnes
  simp [hmask, hmatch, and_controlMask_eq_iff, hop]

/-! ## The rows and the events agree -/

/-- R79: an event is among those of a word exactly when the word matches the event's row and, for FEED, `din` is the
event's byte. -/
theorem mem_decodeEvents_iff_row (i : Instr) (w : CycleWord) :
    i ∈ decodeEvents w ↔ w &&& rowMask i = rowMatch i ∧ ∀ b, i = .feed b → b = dinField w := by
  cases i with
  | rst => simp [rst_mem_decodeEvents, matches_rst_row]
  | tick => simp [tick_mem_decodeEvents, matches_tick_row]
  | nop | feed _ | collect | reset => rw [operation_mem_decodeEvents rfl, matches_operation_row rfl, and_assoc]

/-- Settles O41: each row is `mem_decodeEvents_iff_row` at its event. -/
theorem eventsOfAWordAreItsTableRows : Obligations.EventsOfAWordAreItsTableRows := by
  intro w
  simp [mem_decodeEvents_iff_row, cycleWellFormed_decodeEvents, rowMask, rowMatch, dinField]

end Sys2Proof

namespace Sys2Proof.Machine

/-! ## What a cycle runs (R78) -/

/-- Settles O36: a step runs the events of its word, and RST, the tick and the operation bits say which these are. -/
theorem cycleRunsRstAloneElseTickFirst : Obligations.CycleRunsRstAloneElseTickFirst := by
  intro s w rest hw
  refine ⟨fun hr => ?_, fun hr ht => ?_, fun hr ht => ⟨_, exec_tick _, ?_⟩⟩
  · rw [step_of_word s w rest hw, decodeEvents_of_rst hr, runEvents_single]
  · rw [step_of_word s w rest hw, decodeEvents_of_noTick hr ht, runEvents_single]
  · rw [step_of_word s w rest hw, decodeEvents_of_tick hr ht, runEvents_cons (exec_tick _), runEvents_single]

end Sys2Proof.Machine

/-! PROOF. The Frame Model by itself (40_frame_model.md, R100 to R107): what a frame's bytes are, that they determine its
fields, and that the checksum is the running sum of the bytes before it. -/

namespace Sys2Proof

theorem Sdu.wellFormed_iff (f : Sdu) :
    f.wellFormed = true ↔ f.sync = Config.sync ∧ f.pdu.payload.length ≤ Config.maxPayload := by
  simp [Sdu.wellFormed, Pdu.wellFormed]

end Sys2Proof

namespace Sys2Proof.Machine

/-! ## The wire frame -/

theorem frameBytes_inj {dst cmd dst' cmd' : Byte} {payload payload' : List Byte} :
    frameBytes dst cmd payload = frameBytes dst' cmd' payload' ↔
      dst = dst' ∧ cmd = cmd' ∧ payload = payload' := by
  constructor
  · intro h
    simp only [frameBytes, List.cons_append, List.nil_append, List.cons.injEq] at h
    obtain ⟨-, hdst, hcmd, -, htail⟩ := h
    exact ⟨hdst, hcmd, (List.append_inj' htail rfl).1⟩
  · rintro ⟨rfl, rfl, rfl⟩
    rfl

/-- The length byte of a payload it can declare (R70). -/
theorem toNat_lengthByte {payload : List Byte} (h : payload.length ≤ 255) :
    (BitVec.ofNat 8 payload.length).toNat = payload.length := by
  rw [BitVec.toNat_ofNat]
  omega

theorem encodeFrame_eq_some_iff {dst cmd : Byte} {payload f : List Byte} :
    encodeFrame dst cmd payload = some f ↔ payload.length ≤ 255 ∧ f = frameBytes dst cmd payload := by
  rw [encodeFrame, Option.ite_none_right_eq_some, Option.some_inj, eq_comm (a := f)]
  rfl

/-- Settles O45: the two cases of the length test, and the offsets read off the written-out list. -/
theorem encodeLaysOutTheWireFrame : Obligations.EncodeLaysOutTheWireFrame := by
  intro dst cmd payload
  refine ⟨encodeFrame_of_gt, fun hle => ⟨_, encodeFrame_of_le hle, rfl, ?_, ?_, fun i hi => ?_, ?_⟩⟩
  · rw [frameBytes_length, Config.minFrame, Nat.add_comm]
  · exact ⟨_, rfl, toNat_lengthByte hle⟩
  · simp [frameBytes, Nat.add_comm 4, List.getElem?_append_left hi]
  · simp [frameBytes, Nat.add_comm 4]

/-- Settles O46: both contents are frames, and a frame determines its fields. -/
theorem sduEqualityIsEqualityOfFields : Obligations.SduEqualityIsEqualityOfFields := by
  intro f g hf hg
  obtain ⟨hfs, hfl⟩ := (Sdu.wellFormed_iff f).1 hf
  obtain ⟨hgs, hgl⟩ := (Sdu.wellFormed_iff g).1 hg
  have hcontent : f.content = g.content ↔
      f.dst = g.dst ∧ f.pdu.cmd = g.pdu.cmd ∧ f.pdu.payload = g.pdu.payload := by
    rw [Sdu.content, Sdu.content, encodeFrame_of_le hfl, encodeFrame_of_le hgl, Option.some_inj, frameBytes_inj]
  simp only [Sdu.equal, Bool.and_eq_true, decide_eq_true_eq, hfs, hgs, hcontent, true_and]
  exact and_iff_right_of_imp And.left

/-! ## The checksum and the running sum -/

/-- The bytes of a frame between the marker and the checksum (R70). -/
def frameBody (dst cmd : Byte) (payload : List Byte) : List Byte :=
  [dst, cmd, BitVec.ofNat 8 payload.length] ++ payload

theorem frameBytes_eq (dst cmd : Byte) (payload : List Byte) :
    frameBytes dst cmd payload = Config.sync :: (frameBody dst cmd payload ++ [checksum dst cmd payload]) := rfl

/-- The accumulator after the marker and `fed`: seeded with `SYNC`, each later byte added mod 256 (R103). -/
def runningSum (fed : List Byte) : Byte := fed.foldl (fun acc b => acc + b) Config.sync

@[simp] theorem runningSum_concat (fed : List Byte) (b : Byte) : runningSum (fed ++ [b]) = runningSum fed + b :=
  List.foldl_concat ..

/-- Adding byte by byte mod 256 is adding the natural numbers and reducing once (R103). -/
theorem runningSum_eq_byteSum (fed : List Byte) :
    runningSum fed = BitVec.ofNat 8 (byteSum (Config.sync :: fed)) := by
  induction fed using List.reverseRecOn with
  | nil => rfl
  | append_singleton fed b ih =>
    rw [runningSum_concat, ih, ← List.cons_append, byteSum_append, BitVec.ofNat_add, byteSum_cons b []]
    simp

theorem checksum_eq_byteSum (dst cmd : Byte) {payload : List Byte} (h : payload.length ≤ 255) :
    checksum dst cmd payload = BitVec.ofNat 8 (byteSum (Config.sync :: frameBody dst cmd payload)) := by
  simp [checksum, frameBody, toNat_lengthByte h, Nat.add_assoc]

theorem checksum_eq_runningSum (dst cmd : Byte) {payload : List Byte} (h : payload.length ≤ 255) :
    checksum dst cmd payload = runningSum (frameBody dst cmd payload) := by
  rw [checksum_eq_byteSum dst cmd h, runningSum_eq_byteSum]

end Sys2Proof.Machine

/-! PROOF. Receiving a frame (41_assembler_feed.md R124 to R129, R108): what the block holds after the marker and any bytes
behind it, one FEED at a time and then in a delivery with gaps. `HoldsBody` is the simulation: the list of bytes fed
determines the registers, and a FEED in time appends to the list. -/

namespace Sys2Proof.Machine

/-! ## What the block holds inside a frame -/

/-- The header is stored and `got` is the payload so far: fewer bytes than declared, or all of them (R127, R128). -/
structure HoldsPayload (dst cmd len : Byte) (got : List Byte) (k : Block) : Prop where
  dst_eq : k.dst = dst
  cmd_eq : k.cmd = cmd
  len_eq : k.len = len
  cnt_eq : k.cnt.toNat = got.length
  bytes_eq : memBytes k.buf got.length = got
  state_eq : k.state = if got.length < len.toNat then .waitData else .waitChecksum

/-- The fields stored once the marker and `fed` are received, by how far `fed` reaches (R124 to R128). -/
def StoresBody : List Byte → Block → Prop
  | [], k => k.state = .waitDst
  | [dst], k => k.state = .waitCmd ∧ k.dst = dst
  | [dst, cmd], k => k.state = .waitLen ∧ k.dst = dst ∧ k.cmd = cmd
  | dst :: cmd :: len :: got, k => HoldsPayload dst cmd len got k

/-- The block is inside a frame of which the marker and then `fed` were received. The watchdog is left open. -/
structure HoldsBody (fed : List Byte) (k : Block) : Prop where
  chk_eq : k.chk = runningSum fed
  stores : StoresBody fed k

theorem HoldsPayload.waitChecksum_or_waitData {dst cmd len : Byte} {got : List Byte} {k : Block}
    (h : HoldsPayload dst cmd len got k) : k.state = .waitChecksum ∨ k.state = .waitData := by
  rw [h.state_eq]
  split
  · exact .inr rfl
  · exact .inl rfl

theorem HoldsPayload.length_lt {dst cmd len : Byte} {got : List Byte} {k : Block} (h : HoldsPayload dst cmd len got k)
    (hne : k.state ≠ .waitChecksum) : got.length < len.toNat := by
  by_contra hge
  exact hne (h.state_eq.trans (if_neg hge))

theorem StoresBody.midFrame {fed : List Byte} {k : Block} (h : StoresBody fed k) : k.state.midFrame = true :=
  match fed, h with
  | [], hs => congrArg Phase.midFrame hs
  | [_], ⟨hs, _⟩ => congrArg Phase.midFrame hs
  | [_, _], ⟨hs, _⟩ => congrArg Phase.midFrame hs
  | _ :: _ :: _ :: _, hs => hs.waitChecksum_or_waitData.elim (congrArg Phase.midFrame) (congrArg Phase.midFrame)

theorem Phase.ne_complete_of_midFrame {p : Phase} (h : p.midFrame = true) : p ≠ .complete := by
  rintro rfl
  cases h

/-- WAIT_CHECKSUM is reached exactly when the declared number of payload bytes is in (R127, R128). -/
theorem StoresBody.waitChecksum_iff {dst cmd : Byte} {payload fed later : List Byte} {k : Block}
    (h : StoresBody fed k) (hle : payload.length ≤ 255) (hfed : frameBody dst cmd payload = fed ++ later) :
    k.state = .waitChecksum ↔ later = [] := by
  have hheader (hlt : fed.length < 3) (hs : k.state ≠ .waitChecksum) : k.state = .waitChecksum ↔ later = [] := by
    refine iff_of_false hs ?_
    rintro rfl
    have hlen := congrArg List.length hfed
    simp only [frameBody, List.append_nil, List.length_append, List.length_cons, List.length_nil] at hlen
    omega
  match fed, h with
  | [], hs => exact hheader (by simp) (by simp [show k.state = .waitDst from hs])
  | [_], ⟨hs, _⟩ => exact hheader (by simp) (by simp [hs])
  | [_, _], ⟨hs, _⟩ => exact hheader (by simp) (by simp [hs])
  | _ :: _ :: _ :: got, hs =>
    simp only [frameBody, List.cons_append, List.nil_append, List.cons.injEq] at hfed
    obtain ⟨-, -, rfl, rfl⟩ := hfed
    rw [hs.state_eq, toNat_lengthByte hle]
    simp [← List.length_eq_zero_iff]

theorem StoresBody.setWatchdog {fed : List Byte} {k : Block} (h : StoresBody fed k) (run : Bool) (n : TickCount) :
    StoresBody fed { k with wdRun := run, wdCnt := n } :=
  match fed, h with
  | [], hs | [_], hs | [_, _], hs => hs
  | _ :: _ :: _ :: _, hs => ⟨hs.dst_eq, hs.cmd_eq, hs.len_eq, hs.cnt_eq, hs.bytes_eq, hs.state_eq⟩

/-! ## The bytes of a frame, one FEED at a time -/

/-- The marker starts a frame from every WAIT_SYNC block, timed out or not (R122, R124). -/
theorem holdsBody_of_marker {k : Block} (hk : k.state = .waitSync) :
    HoldsBody [] (feedBlock Config.sync k).1 := by
  have hc : k.state ≠ .complete := by simp [hk]
  cases ht : timedOut k with
  | true =>
    rw [feedBlock_timeout _ k hc ht]
    exact ⟨rfl, rfl⟩
  | false =>
    rw [feedBlock_dispatch _ k hc ht, feedDispatch_waitSync _ (wdStart k) hk]
    exact ⟨rfl, rfl⟩

/-- From the destination to the last payload byte, every byte is added to the accumulator (R125 to R128). -/
theorem feedDispatch_chk (b : Byte) {k : Block} (hmid : k.state.midFrame = true) (hne : k.state ≠ .waitChecksum) :
    (feedDispatch b k).1.chk = k.chk + b := by
  cases hs : k.state with
  | waitSync | complete => simp [hs, Phase.midFrame] at hmid
  | waitDst => rw [feedDispatch_waitDst b k hs]; rfl
  | waitCmd => rw [feedDispatch_waitCmd b k hs]; rfl
  | waitLen => rw [feedDispatch_waitLen b k hs]; rfl
  | waitData => rw [feedDispatch_waitData b k hs]; rfl
  | waitChecksum => exact absurd hs hne

/-- The length byte empties the payload, and is the last byte before the checksum when it is 0 (R127). -/
theorem HoldsPayload.after_length (len : Byte) {k : Block} :
    HoldsPayload k.dst k.cmd len [] (feedWaitLen len k).1 where
  dst_eq := rfl
  cmd_eq := rfl
  len_eq := rfl
  cnt_eq := rfl
  bytes_eq := rfl
  state_eq := by
    by_cases h : len = 0#8
    · simp [feedWaitLen, declaresPayload, h]
    · have hpos : 0 < len.toNat := Nat.pos_of_ne_zero fun h0 => h (BitVec.eq_of_toNat_eq h0)
      simp [feedWaitLen, declaresPayload, h, hpos]

/-- A payload byte goes behind those before it, and the new count decides about WAIT_CHECKSUM (R128). -/
theorem HoldsPayload.after_data {dst cmd len : Byte} {got : List Byte} {k : Block} (b : Byte)
    (h : HoldsPayload dst cmd len got k) (hlt : got.length < len.toNat) :
    HoldsPayload dst cmd len (got ++ [b]) (feedWaitData b k).1 := by
  have hmax : len.toNat < 256 := len.isLt
  have hcnt : (countNext k).toNat = (got ++ [b]).length := by
    simp only [countNext, BitVec.toNat_add, h.cnt_eq, List.length_append, List.length_singleton]
    exact Nat.mod_eq_of_lt (Nat.lt_of_le_of_lt hlt hmax)
  refine ⟨h.dst_eq, h.cmd_eq, h.len_eq, hcnt, ?_, ?_⟩
  · show memBytes (memWrite k.buf k.cnt.toNat b) (got ++ [b]).length = got ++ [b]
    rw [h.cnt_eq, List.length_append, List.length_singleton,
      memBytes_append _ _ _ (Nat.lt_of_lt_of_le hlt (Nat.le_of_lt_succ hmax)), h.bytes_eq]
  · have hlast : lengthReached k (countNext k) = true ↔ ¬ (got ++ [b]).length < len.toNat := by
      rw [lengthReached, beq_iff_eq, ← BitVec.toNat_inj, hcnt, h.len_eq, List.length_append, List.length_singleton]
      omega
    exact (if_congr hlast rfl rfl).trans (ite_not ..)

/-- A byte fed before WAIT_CHECKSUM is stored where its place in the frame says (R125 to R128). -/
theorem StoresBody.after_dispatch {fed : List Byte} {k : Block} (b : Byte) (h : StoresBody fed k)
    (hne : k.state ≠ .waitChecksum) : StoresBody (fed ++ [b]) (feedDispatch b k).1 := by
  match fed, h with
  | [], hs =>
    rw [feedDispatch_waitDst b k hs]
    exact ⟨rfl, rfl⟩
  | [dst], ⟨hs, hdst⟩ =>
    rw [feedDispatch_waitCmd b k hs]
    exact ⟨rfl, hdst, rfl⟩
  | [dst, cmd], ⟨hs, hdst, hcmd⟩ =>
    rw [feedDispatch_waitLen b k hs, ← hdst, ← hcmd]
    exact .after_length b
  | dst :: cmd :: len :: got, hs =>
    rw [feedDispatch_waitData b k (hs.waitChecksum_or_waitData.resolve_left hne)]
    exact hs.after_data b (hs.length_lt hne)

/-- A FEED in time, before WAIT_CHECKSUM, adds one byte to those held. -/
theorem HoldsBody.after_feed {fed : List Byte} {k : Block} (b : Byte) (h : HoldsBody fed k)
    (hne : k.state ≠ .waitChecksum) (ht : timedOut k = false) :
    HoldsBody (fed ++ [b]) (feedBlock b k).1 := by
  rw [feedBlock_dispatch b k (Phase.ne_complete_of_midFrame h.stores.midFrame) ht]
  have hchk : (feedDispatch b (wdStart k)).1.chk = k.chk + b := feedDispatch_chk b h.stores.midFrame hne
  exact ⟨by rw [hchk, runningSum_concat, h.chk_eq], (h.stores.setWatchdog true 0#16).after_dispatch b hne⟩

/-- The byte that equals the accumulator completes the frame (R129). -/
theorem feedBlock_chk {k : Block} (hk : k.state = .waitChecksum) (ht : timedOut k = false) :
    feedBlock k.chk k = ({ wdStart k with wdRun := false, state := .complete }, { frameOk := true }) := by
  rw [feedBlock_dispatch _ k (by simp [hk]) ht, feedDispatch_waitChecksum _ (wdStart k) hk]
  exact if_pos (beq_self_eq_true k.chk)

/-- The checksum, in time, completes the frame, and what is stored is its SDU (R129, R150). -/
theorem HoldsBody.after_checksum {dst cmd : Byte} {payload : List Byte} {k : Block} (hle : payload.length ≤ 255)
    (h : HoldsBody (frameBody dst cmd payload) k) (ht : timedOut k = false) :
    (feedBlock (checksum dst cmd payload) k).1.state = .complete ∧
      storedSdu (feedBlock (checksum dst cmd payload) k).1 = mkSdu dst cmd payload := by
  have hk : k.state = .waitChecksum := (h.stores.waitChecksum_iff hle (List.append_nil _).symm).2 rfl
  have hs : HoldsPayload dst cmd _ payload k := h.stores
  have hlen : k.len.toNat = payload.length := by rw [hs.len_eq, toNat_lengthByte hle]
  rw [checksum_eq_runningSum dst cmd hle, ← h.chk_eq, feedBlock_chk hk ht]
  exact ⟨rfl, by simp [storedSdu, hs.dst_eq, hs.cmd_eq, hlen, hs.bytes_eq]⟩

/-! ## Runs and gaps -/

/-- The block after a run of events. -/
def blockAfterAll (es : List Instr) (k : Block) : Block := es.foldl (fun k i => blockAfter i k) k

@[simp] theorem blockAfterAll_nil (k : Block) : blockAfterAll [] k = k := rfl

@[simp] theorem blockAfterAll_cons (i : Instr) (es : List Instr) (k : Block) :
    blockAfterAll (i :: es) k = blockAfterAll es (blockAfter i k) := rfl

@[simp] theorem blockAfterAll_append (es fs : List Instr) (k : Block) :
    blockAfterAll (es ++ fs) k = blockAfterAll fs (blockAfterAll es k) := List.foldl_append ..

theorem blockAfterAll_concat_feed (es : List Instr) (b : Byte) (k : Block) :
    blockAfterAll (es ++ [.feed b]) k = (feedBlock b (blockAfterAll es k)).1 := blockAfterAll_append ..

/-- `runEvents_spec`, with the block after under its name. -/
theorem runEvents_blockAfterAll (es : List Instr) (s : State) :
    ∃ t, runEvents es s = .next t ∧ t.blk = blockAfterAll es s.blk := by
  obtain ⟨t, ht, hblk, -⟩ := runEvents_spec es s
  exact ⟨t, ht, hblk⟩

/-- A passing event changes nothing but the watchdog count, which only a TICK raises, by one at most (R152, R158, R184). -/
theorem blockAfter_passing {i : Instr} (hi : passing i = true) (k : Block) :
    ∃ n : TickCount, blockAfter i k = { k with wdCnt := n } ∧ n.toNat ≤ k.wdCnt.toNat + tickCount [i] := by
  cases i with
  | rst | feed _ | reset => cases hi
  | nop | collect => exact ⟨k.wdCnt, rfl, Nat.le_refl _⟩
  | tick =>
    show ∃ n : TickCount, wdTick k = { k with wdCnt := n } ∧ n.toNat ≤ k.wdCnt.toNat + 1
    unfold wdTick tickNext
    split
    · split
      · refine ⟨_, rfl, ?_⟩
        rw [BitVec.toNat_add]
        exact Nat.mod_le _ _
      · exact ⟨_, rfl, Nat.le_succ _⟩
    · exact ⟨_, rfl, Nat.le_succ _⟩

/-- A gap changes nothing but the watchdog count, which it raises by its ticks at most. -/
theorem blockAfterAll_passing {gap : List Instr} (hgap : gap.all passing = true) (k : Block) :
    ∃ n : TickCount, blockAfterAll gap k = { k with wdCnt := n } ∧ n.toNat ≤ k.wdCnt.toNat + tickCount gap := by
  induction gap generalizing k with
  | nil => exact ⟨k.wdCnt, rfl, Nat.le_refl _⟩
  | cons i gap ih =>
    obtain ⟨hi, hgap⟩ := Bool.and_eq_true_iff.1 (List.all_cons.symm.trans hgap)
    obtain ⟨n, hn, hle⟩ := blockAfter_passing hi k
    obtain ⟨m, hm, hle'⟩ := ih hgap { k with wdCnt := n }
    refine ⟨m, by rw [blockAfterAll_cons, hn, hm], ?_⟩
    have hcount : tickCount (i :: gap) = tickCount [i] + tickCount gap := List.count_append (l₁ := [i])
    dsimp only at hle'
    omega

/-- A short gap right after a byte neither times the frame out nor changes what is held (R108). -/
theorem HoldsBody.after_shortGap {fed : List Byte} {k : Block} {gap : List Instr} (h : HoldsBody fed k)
    (hwd : k.wdCnt = 0#16) (hgap : shortGap gap = true) :
    HoldsBody fed (blockAfterAll gap k) ∧ timedOut (blockAfterAll gap k) = false := by
  rw [shortGap, Bool.and_eq_true, decide_eq_true_eq] at hgap
  obtain ⟨n, hn, hle⟩ := blockAfterAll_passing hgap.1 k
  rw [hn]
  refine ⟨⟨h.chk_eq, h.stores.setWatchdog k.wdRun n⟩, ?_⟩
  rw [← Bool.not_eq_true, timedOut_iff, Nat.not_lt]
  simp only [hwd, BitVec.toNat_zero, Nat.zero_add] at hle
  exact hle.trans hgap.2

/-! ## The bytes of a frame, delivered in time -/

theorem spaced_append (ds es : List (List Instr × Byte)) : spaced (ds ++ es) = spaced ds ++ spaced es := by
  induction ds with
  | nil => rfl
  | cons d ds ih => simp [spaced, ih]

/-- FEEDS is a delivery without gaps (R90). -/
theorem feeds_eq_spaced (c : List Byte) : feeds c = spaced (c.map fun b => ([], b)) := by
  induction c with
  | nil => rfl
  | cons b c ih => simpa [feeds, spaced] using ih

theorem blockAfterAll_spaced_cons (gap : List Instr) (b : Byte) (ds : List (List Instr × Byte)) (k : Block) :
    blockAfterAll (spaced ((gap, b) :: ds)) k =
      blockAfterAll (spaced ds) (feedBlock b (blockAfterAll gap k)).1 := blockAfterAll_append ..

/-- Bytes of a frame's body, delivered in time, are added to those held, and the last restarts the watchdog (R108). -/
theorem HoldsBody.after_delivery {dst cmd : Byte} {payload : List Byte} (hle : payload.length ≤ 255)
    {fed later : List Byte} {delivery : List (List Instr × Byte)} {k : Block} (h : HoldsBody fed k)
    (hwd : k.wdCnt = 0#16)
    (hgaps : ∀ g ∈ delivery.map Prod.fst, shortGap g = true)
    (hbody : frameBody dst cmd payload = fed ++ delivery.map Prod.snd ++ later) :
    HoldsBody (fed ++ delivery.map Prod.snd) (blockAfterAll (spaced delivery) k) ∧
      (blockAfterAll (spaced delivery) k).wdCnt = 0#16 := by
  induction delivery generalizing fed k with
  | nil => simpa [spaced] using ⟨h, hwd⟩
  | cons d ds ih =>
    obtain ⟨gap, b⟩ := d
    rw [List.map_cons, List.forall_mem_cons] at hgaps
    obtain ⟨hheld, hintime⟩ := h.after_shortGap hwd hgaps.1
    have hassoc : fed ++ ((gap, b) :: ds).map Prod.snd = fed ++ [b] ++ ds.map Prod.snd := by simp
    have hne : (blockAfterAll gap k).state ≠ .waitChecksum := by
      rw [Ne, hheld.stores.waitChecksum_iff hle (hbody.trans (List.append_assoc ..))]
      simp
    have hc := Phase.ne_complete_of_midFrame hheld.stores.midFrame
    rw [hassoc, blockAfterAll_spaced_cons]
    exact ih (hheld.after_feed b hne hintime) (feedBlock_watchdog b hc).1 hgaps.2 (hassoc ▸ hbody)

/-- From WAIT_SYNC, the marker after any gap, and the bytes behind it after short gaps, are held (R108, R124). -/
theorem holdsBody_of_delivery {dst cmd : Byte} {payload later : List Byte} (hle : payload.length ≤ 255)
    {gap : List Instr} {delivery : List (List Instr × Byte)} {k : Block} (hk : k.state = .waitSync)
    (hgap : gap.all passing = true) (hgaps : ∀ g ∈ delivery.map Prod.fst, shortGap g = true)
    (hbody : frameBody dst cmd payload = delivery.map Prod.snd ++ later) :
    HoldsBody (delivery.map Prod.snd) (blockAfterAll (spaced ((gap, Config.sync) :: delivery)) k) ∧
      (blockAfterAll (spaced ((gap, Config.sync) :: delivery)) k).wdCnt = 0#16 := by
  obtain ⟨n, hn, -⟩ := blockAfterAll_passing hgap k
  have hwait : (blockAfterAll gap k).state = .waitSync := by rw [hn]; exact hk
  have hwd := (feedBlock_watchdog Config.sync (k := blockAfterAll gap k) (by simp [hwait])).1
  rw [blockAfterAll_spaced_cons]
  exact (holdsBody_of_marker hwait).after_delivery hle hwd hgaps hbody

/-- The marker and the first bytes behind it, fed without gaps from WAIT_SYNC, are held. -/
theorem holdsBody_of_feeds {dst cmd : Byte} {payload fed later : List Byte} (hle : payload.length ≤ 255)
    {s : State} (hs : s.blk.state = .waitSync) (hbody : frameBody dst cmd payload = fed ++ later) :
    ∃ t, runEvents (feeds (Config.sync :: fed)) s = .next t ∧ HoldsBody fed t.blk := by
  obtain ⟨t, ht, hblk⟩ := runEvents_blockAfterAll (feeds (Config.sync :: fed)) s
  have hsnd : (fed.map fun b => (([] : List Instr), b)).map Prod.snd = fed := by simp [Function.comp_def]
  have hheld := (holdsBody_of_delivery (gap := []) (delivery := fed.map fun b => ([], b)) (later := later) hle hs rfl
    (by simp [shortGap, tickCount]) (by rw [hsnd, hbody])).1
  rw [hsnd] at hheld
  exact ⟨t, ht, by rwa [hblk, feeds_eq_spaced]⟩

/-- Settles O44: the accumulator of a block that holds the bytes fed is their running sum. -/
theorem checksumIsTheRunningSum : Obligations.ChecksumIsTheRunningSum := by
  intro dst cmd payload hle
  refine ⟨checksum_eq_byteSum dst cmd hle, checksum_eq_runningSum dst cmd hle, fun s _ hs => ⟨?_, ?_⟩⟩
  · have hall : frameBody dst cmd payload = frameBody dst cmd payload ++ [] := (List.append_nil _).symm
    obtain ⟨t, ht, hheld⟩ := holdsBody_of_feeds hle hs hall
    exact ⟨t, ht, (hheld.stores.waitChecksum_iff hle hall).2 rfl,
      hheld.chk_eq.trans (checksum_eq_runningSum dst cmd hle).symm⟩
  · intro fed later hbody
    obtain ⟨t, ht, hheld⟩ := holdsBody_of_feeds hle hs hbody
    refine ⟨t, ht, hheld.chk_eq.trans ?_⟩
    simp only [runningSum, BitVec.add_def]

/-! ## The whole frame -/

/-- A frame's delivery ends with its checksum; until then all the bytes before are held, in time (R108). -/
theorem holdsBody_before_checksum {dst cmd : Byte} {payload : List Byte} {delivery : List (List Instr × Byte)}
    {k : Block} (hle : payload.length ≤ 255) (hk : k.state = .waitSync)
    (hframe : delivery.map Prod.snd = frameBytes dst cmd payload)
    (hpassing : ∀ g ∈ delivery.map Prod.fst, g.all passing = true)
    (hgaps : ∀ g ∈ (delivery.map Prod.fst).tail, shortGap g = true) :
    ∃ es, spaced delivery = es ++ [.feed (checksum dst cmd payload)] ∧
      HoldsBody (frameBody dst cmd payload) (blockAfterAll es k) ∧ timedOut (blockAfterAll es k) = false := by
  rw [frameBytes_eq, List.map_eq_cons_iff] at hframe
  obtain ⟨⟨gap, _⟩, rest, rfl, rfl, hrest⟩ := hframe
  obtain ⟨body, last, rfl, hbody, hlast⟩ := List.map_eq_append_iff.1 hrest
  obtain ⟨⟨lastGap, _⟩, rfl, rfl⟩ := List.map_eq_singleton_iff.1 hlast
  simp only [List.map_cons, List.map_append, List.tail_cons, List.forall_mem_append] at hpassing hgaps
  obtain ⟨hheld, hwd⟩ := holdsBody_of_delivery (later := []) hle hk (hpassing gap (by simp)) hgaps.1
    (by rw [hbody, List.append_nil])
  rw [hbody] at hheld
  refine ⟨spaced ((gap, Config.sync) :: body) ++ lastGap, ?_, ?_⟩
  · rw [← List.cons_append, spaced_append]
    simp [spaced]
  · rw [blockAfterAll_append]
    exact hheld.after_shortGap hwd (hgaps.2 lastGap (by simp))

/-- Only RESET and RST end COMPLETE (R131, R152). -/
theorem blockAfterAll_complete {es : List Instr} {k : Block} (hes : ∀ e ∈ es, e ≠ .reset ∧ e ≠ .rst)
    (hk : k.state = .complete) : (blockAfterAll es k).state = .complete := by
  induction es generalizing k with
  | nil => exact hk
  | cons e es ih =>
    rw [List.forall_mem_cons] at hes
    refine ih hes.2 ?_
    cases e with
    | rst => exact absurd rfl hes.1.2
    | tick => exact (wdTick_state k).trans hk
    | nop | collect => exact hk
    | feed b => exact (congrArg (·.1.state) (feedBlock_complete b k hk)).trans hk
    | reset => exact absurd rfl hes.1.1

theorem spaced_ne_reset {delivery : List (List Instr × Byte)}
    (hpassing : ∀ g ∈ delivery.map Prod.fst, g.all passing = true) :
    ∀ e ∈ spaced delivery, e ≠ .reset ∧ e ≠ .rst := by
  induction delivery with
  | nil => simp [spaced]
  | cons d ds ih =>
    obtain ⟨gap, b⟩ := d
    rw [List.map_cons, List.forall_mem_cons] at hpassing
    have hgap : ∀ e ∈ gap, e ≠ .reset ∧ e ≠ .rst := by
      intro e he
      have hp := List.all_eq_true.1 hpassing.1 e he
      constructor <;> rintro rfl <;> cases hp
    rw [spaced, List.forall_mem_append, List.forall_mem_cons]
    exact ⟨hgap, by simp, ih hpassing.2⟩

/-- Settles O47: before the checksum the block holds the body, so the checksum completes the frame; and no earlier event
can, because COMPLETE would still be there before the checksum. -/
theorem fedFrameIsCollected : Obligations.FedFrameIsCollected := by
  intro dst cmd payload f s delivery hf hreset hdelivery hpassing hgaps
  obtain ⟨hle, rfl⟩ := encodeFrame_eq_some_iff.1 hf
  have hk : s.blk.state = .waitSync := by rw [hreset]; rfl
  obtain ⟨es, hes, hheld, hintime⟩ := holdsBody_before_checksum hle hk hdelivery hpassing hgaps
  refine ⟨?_, fun before after hsplit hafter => ?_⟩
  · obtain ⟨t, ht, hblk⟩ := runEvents_blockAfterAll (spaced delivery) s
    obtain ⟨hcomplete, hsdu⟩ := hheld.after_checksum hle hintime
    rw [← blockAfterAll_concat_feed, ← hes, ← hblk] at hcomplete hsdu
    exact ⟨t, ht, hcomplete, by rw [exec_collect_complete t hcomplete, hsdu]⟩
  · obtain ⟨u, hu, hblk⟩ := runEvents_blockAfterAll before s
    refine ⟨u, hu, fun hcomplete => ?_⟩
    have hinit : before <+: es := by
      refine (List.prefix_concat_iff.1 ⟨after, (hes.symm.trans hsplit).symm⟩).resolve_left fun hall => hafter ?_
      rwa [hes, ← hall, List.self_eq_append_right] at hsplit
    obtain ⟨between, rfl⟩ := hinit
    have hbetween : ∀ e ∈ between, e ≠ .reset ∧ e ≠ .rst := fun e he => spaced_ne_reset hpassing e (by simp [hes, he])
    refine Phase.ne_complete_of_midFrame hheld.stores.midFrame ?_
    rw [blockAfterAll_append, ← hblk]
    exact blockAfterAll_complete hbetween hcomplete

end Sys2Proof.Machine

/-! PROOF. FEED, row by row (41_assembler_feed.md R122 to R133): one equation per row of the transition table, then the
statements about single rows, about the table as a whole, and about a frame after a long silence. -/

namespace Sys2Proof.Machine

/-! ## One equation per row of the transition table -/

theorem timedOut_eq_false_iff (k : Block) : timedOut k = false ↔ k.wdCnt.toNat ≤ Config.timeoutTicks.toNat := by
  rw [← Bool.not_eq_true, timedOut_iff, Nat.not_lt]

theorem feedBlock_timeoutMarker {k : Block} (hk : k.state ≠ .complete) (ht : timedOut k = true) :
    feedBlock Config.sync k = ({ clearedRestarted with chk := Config.sync, state := .waitDst },
      { timeout := true, syncFound := true }) :=
  feedBlock_timeout _ k hk ht

/-- What FEED in WAIT_SYNC does with a byte other than the marker (R124). -/
theorem feedWaitSync_noise {b : Byte} (hb : b ≠ Config.sync) (k : Block) :
    feedWaitSync b k = (k, { noiseDrop := true }) := by
  simp [feedWaitSync, isMarker, hb]

theorem feedBlock_timeoutNoise {b : Byte} {k : Block} (hk : k.state ≠ .complete) (ht : timedOut k = true)
    (hb : b ≠ Config.sync) : feedBlock b k = (clearedRestarted, { timeout := true, noiseDrop := true }) := by
  rw [feedBlock_timeout b k hk ht, feedWaitSync_noise hb]
  rfl

section InTime

variable {b : Byte} {k : Block} (ht : timedOut k = false)
include ht

theorem feedBlock_marker (hk : k.state = .waitSync) :
    feedBlock Config.sync k =
      (restarted { k with chk := Config.sync, state := .waitDst }, { syncFound := true }) := by
  rw [feedBlock_dispatch _ k (by simp [hk]) ht, feedDispatch_waitSync _ (wdStart k) hk]
  rfl

theorem feedBlock_noise (hk : k.state = .waitSync) (hb : b ≠ Config.sync) :
    feedBlock b k = (restarted k, { noiseDrop := true }) := by
  rw [feedBlock_dispatch b k (by simp [hk]) ht, feedDispatch_waitSync b (wdStart k) hk, feedWaitSync_noise hb]
  rfl

theorem feedBlock_destination (hk : k.state = .waitDst) :
    feedBlock b k = (restarted { k with dst := b, chk := k.chk + b, state := .waitCmd }, {}) := by
  rw [feedBlock_dispatch b k (by simp [hk]) ht, feedDispatch_waitDst b (wdStart k) hk]
  rfl

theorem feedBlock_command (hk : k.state = .waitCmd) :
    feedBlock b k = (restarted { k with cmd := b, chk := k.chk + b, state := .waitLen }, {}) := by
  rw [feedBlock_dispatch b k (by simp [hk]) ht, feedDispatch_waitCmd b (wdStart k) hk]
  rfl

theorem feedBlock_lengthPositive (hk : k.state = .waitLen) (hb : 0 < b.toNat) :
    feedBlock b k = (restarted { k with
      len := b, chk := k.chk + b, cnt := 0#8, buf := [], state := .waitData }, {}) := by
  have hne : b ≠ 0#8 := by rintro rfl; exact Nat.lt_irrefl _ hb
  rw [feedBlock_dispatch b k (by simp [hk]) ht, feedDispatch_waitLen b (wdStart k) hk]
  simp [feedWaitLen, declaresPayload, hne, bufClear, checksumAdd, wdStart]

theorem feedBlock_lengthZero (hk : k.state = .waitLen) (hb : b.toNat = 0) :
    feedBlock b k = (restarted { k with
      len := 0#8, chk := k.chk, cnt := 0#8, buf := [], state := .waitChecksum }, {}) := by
  obtain rfl : b = 0#8 := BitVec.eq_of_toNat_eq hb
  rw [feedBlock_dispatch _ k (by simp [hk]) ht, feedDispatch_waitLen _ (wdStart k) hk]
  simp [feedWaitLen, declaresPayload, bufClear, checksumAdd, wdStart]

/-- Both rows of WAIT_DATA: the new count, on eight bits, decides between them (R128). -/
theorem feedBlock_data (hk : k.state = .waitData) :
    feedBlock b k = (restarted { k with
      buf := memWrite k.buf k.cnt.toNat b, chk := k.chk + b, cnt := k.cnt + 1#8,
      state := if k.cnt + 1#8 = k.len then .waitChecksum else .waitData }, {}) := by
  rw [feedBlock_dispatch b k (by simp [hk]) ht, feedDispatch_waitData b (wdStart k) hk]
  simp [feedWaitData, lengthReached, countNext, bufAppend, checksumAdd, wdStart]

theorem feedBlock_checksumMismatch (hk : k.state = .waitChecksum) (hb : b ≠ k.chk) :
    feedBlock b k = (clearedRestarted, { chkFail := true }) := by
  rw [feedBlock_dispatch b k (by simp [hk]) ht, feedDispatch_waitChecksum b (wdStart k) hk]
  exact if_neg (by simpa [matchesChecksum] using hb)

end InTime

/-! ## The statements about single rows -/

/-- `exec_feed`, from what FEED does to the block. -/
theorem exec_feed_of_feedBlock {b : Byte} {s : State} {k : Block} {p : Pulses} (h : feedBlock b s.blk = (k, p)) :
    exec (.feed b) s = .next { s with blk := k, out := ⟨.ok, p, .phase k.state⟩ } := by
  rw [exec_feed, h]

/-- Settles O10: the two rows of WAIT_SYNC. -/
theorem feedInWaitSyncLooksForMarker : Obligations.FeedInWaitSyncLooksForMarker := by
  intro s b hk hcnt
  have ht := (timedOut_eq_false_iff s.blk).2 hcnt
  refine ⟨?_, fun hb => ?_⟩
  · rintro rfl
    exact exec_feed_of_feedBlock (feedBlock_marker ht hk)
  · simpa only [restarted, hk] using exec_feed_of_feedBlock (feedBlock_noise ht hk hb)

/-- Settles O11: the row of WAIT_DST. -/
theorem feedInWaitDstStoresDestination : Obligations.FeedInWaitDstStoresDestination := by
  intro s b hk hcnt
  rw [← BitVec.add_def]
  exact exec_feed_of_feedBlock (feedBlock_destination ((timedOut_eq_false_iff s.blk).2 hcnt) hk)

/-- Settles O12: the row of WAIT_CMD. -/
theorem feedInWaitCmdStoresCommand : Obligations.FeedInWaitCmdStoresCommand := by
  intro s b hk hcnt
  rw [← BitVec.add_def]
  exact exec_feed_of_feedBlock (feedBlock_command ((timedOut_eq_false_iff s.blk).2 hcnt) hk)

/-- Settles O13: the two rows of WAIT_LEN. -/
theorem feedInWaitLenStoresLength : Obligations.FeedInWaitLenStoresLength := by
  intro s b hk hcnt
  have ht := (timedOut_eq_false_iff s.blk).2 hcnt
  rw [← BitVec.add_def]
  exact ⟨fun hb => exec_feed_of_feedBlock (feedBlock_lengthPositive ht hk hb),
    fun hb => exec_feed_of_feedBlock (feedBlock_lengthZero ht hk hb)⟩

/-- Below the declared length, counting one more byte does not wrap (R41). -/
theorem toNat_cnt_succ {k : Block} (h : k.cnt.toNat < k.len.toNat) : (k.cnt + 1#8).toNat = k.cnt.toNat + 1 := by
  rw [BitVec.toNat_add]
  exact Nat.mod_eq_of_lt (Nat.lt_of_le_of_lt h k.len.isLt)

/-- Settles O14: the rows of WAIT_DATA; under the invariant the cell lies in the buffer and the count does not wrap. -/
theorem feedInWaitDataAppendsByte : Obligations.FeedInWaitDataAppendsByte := by
  intro s b hinv hk hcnt
  obtain ⟨-, hlt⟩ := hinv.countInBounds.1 hk
  have hcell : s.blk.cnt.toNat < Config.bufDepth := Nat.lt_of_lt_of_le hlt (Nat.le_of_lt_succ s.blk.len.isLt)
  have hnext := toNat_cnt_succ hlt
  refine ⟨_, exec_feed_of_feedBlock (feedBlock_data ((timedOut_eq_false_iff s.blk).2 hcnt) hk), ?_, hnext,
    Nat.le_of_lt_succ hcell, rfl, read_memWrite_same _ _ b hcell, fun a ha => read_memWrite_other _ _ a b ha, ?_⟩
  · rw [← BitVec.add_def]
  · rw [Block.received, hnext]
    exact memBytes_append s.blk.buf _ b hcell

/-- Settles O15: the row of a matching checksum. -/
theorem matchingChecksumCompletes : Obligations.MatchingChecksumCompletes := by
  rintro s _ hk hcnt rfl
  exact exec_feed_of_feedBlock (feedBlock_chk hk ((timedOut_eq_false_iff s.blk).2 hcnt))

/-- Settles O16: the row of a mismatching checksum. -/
theorem mismatchingChecksumDiscards : Obligations.MismatchingChecksumDiscards := by
  intro s b hk hcnt hb
  exact exec_feed_of_feedBlock (feedBlock_checksumMismatch ((timedOut_eq_false_iff s.blk).2 hcnt) hk hb)

/-- Settles O17: the row of COMPLETE, which asks nothing of the count. -/
theorem feedInCompleteIsDropped : Obligations.FeedInCompleteIsDropped := by
  intro s b hk
  rw [exec_feed_of_feedBlock (feedBlock_complete b s.blk hk), hk]

/-! ## The table as a whole -/

/-- The result of FEED: COMPLETE for a checksum that matches in time, or when COMPLETE already (R132). -/
theorem feedBlock_state_eq_complete_iff (b : Byte) (k : Block) :
    (feedBlock b k).1.state = .complete ↔
      k.state = .complete ∨ (k.state = .waitChecksum ∧ timedOut k = false ∧ b = k.chk) := by
  rcases feedBlock_cases b k with ⟨hk, h⟩ | ⟨hk, ht, -, h⟩ | ⟨hk, ht, -, h⟩ | ⟨-, hk, -, h⟩ | ⟨-, hk, -, h⟩ |
    ⟨-, hk, h⟩ | ⟨-, hk, h⟩ | ⟨-, hk, h⟩ | ⟨-, hk, h⟩ | ⟨ht, hk, hb, h⟩ | ⟨-, hk, hb, h⟩ <;> rw [h]
  case inl => exact ⟨.inl, fun _ => hk⟩
  · simp [hk, ht]
  · simp [hk, ht]
  · simp [hk]
  · simp [hk]
  · simp [hk]
  · simp [hk]
  · dsimp only; split <;> simp [hk]
  · dsimp only; split <;> simp [hk]
  · simp [hk, ht, hb]
  · simp [hk, hb]

/-- Settles O19: the outputs are those of `exec_feed`, and the result is COMPLETE as `feedBlock` says. -/
theorem feedReturnsTheStateAfter : Obligations.FeedReturnsTheStateAfter := by
  intro s b
  refine ⟨_, exec_feed b s, rfl, rfl, rfl, beq_iff_eq, ?_⟩
  rw [feedBlock_state_eq_complete_iff, timedOut_eq_false_iff]
  rfl

/-- The block after, in every row of the table, is what FEED leaves; so no two rows disagree. -/
theorem FeedRow.eq_feedBlock {b : Byte} {k k' : Block} (h : FeedRow b k k') : k' = (feedBlock b k).1 := by
  cases h with
  | timeoutMarker hk ht hb => rw [hb, feedBlock_timeoutMarker hk ((timedOut_iff k).2 ht)]
  | timeoutNoise hk ht hb => rw [feedBlock_timeoutNoise hk ((timedOut_iff k).2 ht) hb]
  | noise hk ht hb => rw [feedBlock_noise ((timedOut_eq_false_iff k).2 ht) hk hb]
  | marker hk ht hb => rw [hb, feedBlock_marker ((timedOut_eq_false_iff k).2 ht) hk]
  | destination hk ht => rw [feedBlock_destination ((timedOut_eq_false_iff k).2 ht) hk]
  | command hk ht => rw [feedBlock_command ((timedOut_eq_false_iff k).2 ht) hk]
  | lengthPositive hk ht hb => rw [feedBlock_lengthPositive ((timedOut_eq_false_iff k).2 ht) hk hb]
  | lengthZero hk ht hb => rw [feedBlock_lengthZero ((timedOut_eq_false_iff k).2 ht) hk hb]
  | dataMore hk ht hcnt =>
    have hne : k.cnt + 1#8 ≠ k.len := fun heq =>
      hcnt.ne ((toNat_cnt_succ (Nat.lt_of_succ_lt hcnt)).symm.trans (congrArg BitVec.toNat heq))
    rw [feedBlock_data ((timedOut_eq_false_iff k).2 ht) hk, if_neg hne]
  | dataLast hk ht hcnt =>
    have heq : k.cnt + 1#8 = k.len := BitVec.eq_of_toNat_eq ((toNat_cnt_succ (Nat.lt_of_succ_le hcnt.le)).trans hcnt)
    rw [feedBlock_data ((timedOut_eq_false_iff k).2 ht) hk, if_pos heq]
  | checksumMatch hk ht hb => rw [hb, feedBlock_chk hk ((timedOut_eq_false_iff k).2 ht)]; rfl
  | checksumMismatch hk ht hb => rw [feedBlock_checksumMismatch ((timedOut_eq_false_iff k).2 ht) hk hb]
  | hold hk => rw [feedBlock_complete b k hk]

/-- Where the count is below the length in WAIT_DATA, every FEED makes the transition of a row (R133). -/
theorem feedRow_feedBlock (b : Byte) {k : Block} (hcount : k.state = .waitData → k.cnt.toNat < k.len.toNat) :
    FeedRow b k (feedBlock b k).1 := by
  by_cases hc : k.state = .complete
  · rw [feedBlock_complete b k hc]
    exact .hold hc
  cases htimed : timedOut k with
  | true =>
    have ht := (timedOut_iff k).1 htimed
    by_cases hb : b = Config.sync
    · rw [hb, feedBlock_timeoutMarker hc htimed]
      exact .timeoutMarker hc ht rfl
    · rw [feedBlock_timeoutNoise hc htimed hb]
      exact .timeoutNoise hc ht hb
  | false =>
    have ht := (timedOut_eq_false_iff k).1 htimed
    cases hk : k.state with
    | waitSync =>
      by_cases hb : b = Config.sync
      · rw [hb, feedBlock_marker htimed hk]
        exact .marker hk ht rfl
      · rw [feedBlock_noise htimed hk hb]
        exact .noise hk ht hb
    | waitDst =>
      rw [feedBlock_destination htimed hk]
      exact .destination hk ht
    | waitCmd =>
      rw [feedBlock_command htimed hk]
      exact .command hk ht
    | waitLen =>
      rcases Nat.eq_zero_or_pos b.toNat with hb | hb
      · rw [feedBlock_lengthZero htimed hk hb]
        exact .lengthZero hk ht hb
      · rw [feedBlock_lengthPositive htimed hk hb]
        exact .lengthPositive hk ht hb
    | waitData =>
      have hlt := hcount hk
      have hnext := toNat_cnt_succ hlt
      rw [feedBlock_data htimed hk]
      by_cases hlast : k.cnt + 1#8 = k.len
      · rw [if_pos hlast]
        exact .dataLast hk ht (hnext.symm.trans (congrArg BitVec.toNat hlast))
      · rw [if_neg hlast]
        refine .dataMore hk ht (Nat.lt_of_le_of_ne hlt fun heq => hlast ?_)
        exact BitVec.eq_of_toNat_eq (hnext.trans heq)
    | waitChecksum =>
      by_cases hb : b = k.chk
      · rw [hb, feedBlock_chk hk htimed]
        exact .checksumMatch hk ht rfl
      · rw [feedBlock_checksumMismatch htimed hk hb]
        exact .checksumMismatch hk ht hb
    | complete => exact absurd hk hc

/-- Settles O20: each row's result is the one result of FEED, and every FEED under the invariant is a row. -/
theorem feedFollowsTheTransitionTable : Obligations.FeedFollowsTheTransitionTable := by
  refine ⟨fun b k k₁ k₂ h₁ h₂ => h₁.eq_feedBlock.trans h₂.eq_feedBlock.symm, fun b s hinv => ?_, fun i s t ht => ?_⟩
  · exact ⟨_, exec_feed b s, feedRow_feedBlock b fun hk => (hinv.countInBounds.1 hk).2, rfl⟩
  · rw [(exec_inv ht).1]
    constructor
    · rintro (rfl | rfl) <;> rfl
    · rintro (rfl | rfl | rfl)
      · exact wdTick_state s.blk
      · rfl
      · rfl

/-! ## A long silence, then a whole frame -/

/-- A running watchdog counts exactly the ticks among passing events, saturating (R184). -/
theorem blockAfter_passing_running {i : Instr} (hi : passing i = true) {k : Block} (hrun : k.wdRun = true) :
    ∃ n : TickCount, blockAfter i k = { k with wdCnt := n } ∧
      n.toNat = min (k.wdCnt.toNat + tickCount [i]) Config.wdMax.toNat := by
  have hmax : k.wdCnt.toNat ≤ Config.wdMax.toNat := Nat.le_of_lt_succ k.wdCnt.isLt
  cases i with
  | rst | feed _ | reset => cases hi
  | nop | collect => exact ⟨k.wdCnt, rfl, (Nat.min_eq_left hmax).symm⟩
  | tick =>
    refine ⟨tickNext k.wdCnt, if_pos hrun, ?_⟩
    show (tickNext k.wdCnt).toNat = min (k.wdCnt.toNat + 1) Config.wdMax.toNat
    unfold tickNext
    split
    case isTrue hlt =>
      rw [Nat.min_eq_left hlt, BitVec.toNat_add]
      exact Nat.mod_eq_of_lt (Nat.lt_of_le_of_lt hlt (by decide))
    case isFalse hge =>
      rw [Nat.min_eq_right (Nat.le_succ_of_le (Nat.not_lt.1 hge))]
      exact Nat.le_antisymm hmax (Nat.not_lt.1 hge)

theorem blockAfterAll_passing_running {gap : List Instr} (hgap : gap.all passing = true) {k : Block}
    (hrun : k.wdRun = true) :
    ∃ n : TickCount, blockAfterAll gap k = { k with wdCnt := n } ∧
      n.toNat = min (k.wdCnt.toNat + tickCount gap) Config.wdMax.toNat := by
  induction gap generalizing k with
  | nil => exact ⟨k.wdCnt, rfl, (Nat.min_eq_left (Nat.le_of_lt_succ k.wdCnt.isLt)).symm⟩
  | cons i gap ih =>
    obtain ⟨hi, hgap⟩ := Bool.and_eq_true_iff.1 (List.all_cons.symm.trans hgap)
    obtain ⟨n, hn, hcnt⟩ := blockAfter_passing_running hi hrun
    obtain ⟨m, hm, hcnt'⟩ := ih hgap (k := { k with wdCnt := n }) hrun
    refine ⟨m, by rw [blockAfterAll_cons, hn, hm], ?_⟩
    have hcount : tickCount (i :: gap) = tickCount [i] + tickCount gap := List.count_append (l₁ := [i])
    dsimp only at hcnt'
    omega

/-- A silence above the threshold times out whatever the watchdog was counting for (R10, R122). -/
theorem timedOut_of_silence {gap : List Instr} (hgap : gap.all passing = true)
    (hlong : Config.timeoutTicks.toNat < tickCount gap) {k : Block} (hrun : k.wdRun = true) :
    (blockAfterAll gap k).state = k.state ∧ timedOut (blockAfterAll gap k) = true := by
  obtain ⟨n, hn, hcnt⟩ := blockAfterAll_passing_running hgap hrun
  rw [hn, timedOut_iff]
  refine ⟨rfl, hcnt ▸ Nat.lt_min.2 ⟨hlong.trans_le (Nat.le_add_left ..), timeoutTicks_lt_wdMax.2⟩⟩

theorem timedOut_of_zero {k : Block} (h : k.wdCnt = 0#16) : timedOut k = false := by
  rw [timedOut, wdElapsed, h]
  rfl

theorem abyte_of_not_complete {b : Byte} {k : Block} (h : (feedBlock b k).1.state ≠ .complete) :
    abyte b k = ((feedBlock b k).1, none) :=
  if_neg h

theorem abyte_of_complete {b : Byte} {k : Block} (h : (feedBlock b k).1.state = .complete) :
    abyte b k = (Block.reset, some (storedSdu (feedBlock b k).1)) :=
  if_pos h

/-- The Analyzer takes a byte that leaves no COMPLETE behind as a plain FEED (R165). -/
theorem analyze_cons_of_not_complete {b : Byte} {c : List Byte} {k : Block}
    (h : (feedBlock b k).1.state ≠ .complete) : analyze (b :: c) k = analyze c (feedBlock b k).1 := by
  rw [analyze, abyte_of_not_complete h]
  rfl

/-- Inside a frame with the watchdog just restarted, the rest of the frame gives its SDU, and nothing else (R165). -/
theorem HoldsBody.analyze_rest {dst cmd : Byte} {payload : List Byte} (hle : payload.length ≤ 255)
    {fed later : List Byte} {k : Block} (h : HoldsBody fed k) (hwd : k.wdCnt = 0#16)
    (hbody : frameBody dst cmd payload = fed ++ later) :
    analyze (later ++ [checksum dst cmd payload]) k = (Block.reset, [mkSdu dst cmd payload]) := by
  have hintime := timedOut_of_zero hwd
  induction later generalizing fed k with
  | nil =>
    rw [List.append_nil] at hbody
    obtain ⟨hcomplete, hsdu⟩ := (hbody ▸ h).after_checksum hle hintime
    rw [List.nil_append, analyze, abyte_of_complete hcomplete, hsdu]
    rfl
  | cons b later ih =>
    have hne : k.state ≠ .waitChecksum := by
      rw [Ne, h.stores.waitChecksum_iff hle hbody]
      simp
    have hnext := h.after_feed b hne hintime
    have hwd' := (feedBlock_watchdog b (Phase.ne_complete_of_midFrame h.stores.midFrame)).1
    rw [List.cons_append, analyze_cons_of_not_complete (Phase.ne_complete_of_midFrame hnext.stores.midFrame)]
    exact ih hnext hwd' (by rw [hbody]; simp) (timedOut_of_zero hwd')

/-- A frame whose marker the block takes as the start of a frame comes out as exactly its SDU. -/
theorem analyze_frameBytes_of_marker {dst cmd : Byte} {payload : List Byte} (hle : payload.length ≤ 255) {k : Block}
    (hk : k.state ≠ .complete) (hmarker : HoldsBody [] (feedBlock Config.sync k).1) :
    analyze (frameBytes dst cmd payload) k = (Block.reset, [mkSdu dst cmd payload]) := by
  rw [frameBytes_eq, analyze_cons_of_not_complete (Phase.ne_complete_of_midFrame hmarker.stores.midFrame)]
  exact hmarker.analyze_rest hle (feedBlock_watchdog Config.sync hk).1 rfl

/-- Settles O53: the silence times the partial frame out, so the marker starts a frame from a cleared block. -/
theorem timeoutDoesNotConcatenate : Obligations.TimeoutDoesNotConcatenate := by
  intro s gap dst cmd payload f hinv hmid hgap hlong hf
  obtain ⟨hle, rfl⟩ := encodeFrame_eq_some_iff.1 hf
  obtain ⟨t, ht, hblk⟩ := runEvents_blockAfterAll gap s
  obtain ⟨hstate, htimed⟩ := timedOut_of_silence hgap hlong (hinv.watchdogRight.1 hmid)
  rw [← hblk] at hstate htimed
  have hc : t.blk.state ≠ .complete := by
    rw [hstate]
    exact Phase.ne_complete_of_midFrame hmid
  have hmarker : HoldsBody [] (feedBlock Config.sync t.blk).1 := by
    rw [feedBlock_timeoutMarker hc htimed]
    exact ⟨rfl, rfl⟩
  have hanalyze := analyze_frameBytes_of_marker (dst := dst) (cmd := cmd) hle hc hmarker
  exact ⟨t, ht, congrArg Prod.snd hanalyze, congrArg Prod.fst hanalyze⟩

end Sys2Proof.Machine

/-! PROOF. COLLECT, RESET and NOP (42_assembler_collect_reset.md): what each answers; that no event reads the outputs of the
one before, so a run after RESET or RST is a run of a never-used block; and that nothing of a partial frame is shown. -/

namespace Sys2Proof.Machine

/-! ## No event reads the outputs -/

/-- The outputs of the event before are read by none (R202). -/
theorem exec_setOut (i : Instr) (s : State) (o : Output) : exec i { s with out := o } = exec i s := by
  cases i with
  | rst | tick | nop | feed _ | collect | reset => rfl

theorem runEvents_cons_setOut (i : Instr) (es : List Instr) (s : State) (o : Output) :
    runEvents (i :: es) { s with out := o } = runEvents (i :: es) s := by
  obtain ⟨o', ho'⟩ := exec_spec i s
  rw [runEvents_cons ho', runEvents_cons ((exec_setOut i s o).trans ho')]

theorem collected_cons {i : Instr} {es : List Instr} {s t : State} (h : exec i s = .next t) :
    collected (i :: es) s = t.out.handedOut.toList ++ collected es t := by
  rw [collected, h]

theorem collected_cons_setOut (i : Instr) (es : List Instr) (s : State) (o : Output) :
    collected (i :: es) { s with out := o } = collected (i :: es) s := by
  obtain ⟨o', ho'⟩ := exec_spec i s
  rw [collected_cons ho', collected_cons ((exec_setOut i s o).trans ho')]

/-! ## RESET -/

/-- After an event that resets the block, a later event finds what it finds in a never-used block: the outputs differ at
most, and it does not read them (R156). -/
theorem runEvents_after_reset {r : Instr} {s : State} {o : Output}
    (hr : exec r s = .next { s with blk := Block.reset, out := o }) (e : Instr) (es : List Instr) :
    runEvents (r :: e :: es) s = runEvents (e :: es) { State.reset with inputs := s.inputs } := by
  rw [runEvents_cons hr]
  exact runEvents_cons_setOut e es { State.reset with inputs := s.inputs } o

theorem collected_after_reset (s : State) (e : Instr) (es : List Instr) :
    collected (.reset :: e :: es) s = collected (e :: es) { State.reset with inputs := s.inputs } := by
  rw [collected_cons (exec_reset s)]
  exact collected_cons_setOut e es { State.reset with inputs := s.inputs } _

theorem runEvents_reset_reset (s : State) : runEvents [.reset, .reset] s = runEvents [.reset] s := by
  rw [runEvents_cons (exec_reset s), runEvents_single, runEvents_single, exec_reset, exec_reset]

/-- Settles O4: any history ends in some state with the same inputs, and what follows RESET or RST does not depend on
which. -/
theorem afterResetBehavesAsNeverUsed : Obligations.AfterResetBehavesAsNeverUsed := by
  intro history s e es
  obtain ⟨u, hu, -, hinputs⟩ := runEvents_spec history s
  refine ⟨?_, ?_, collected_after_reset s e es, ?_⟩
  · rw [runEvents_append hu, runEvents_after_reset (exec_reset u), hinputs]
  · rw [runEvents_append hu, runEvents_after_reset (exec_rst u), hinputs]
  · rw [runEvents_append hu, runEvents_append hu, runEvents_reset_reset]

/-- Settles O3: RESET and RST both leave the block in its reset state. -/
theorem resetClearsFromEveryState : Obligations.ResetClearsFromEveryState := by
  intro s
  exact ⟨exec_reset s, fun t u ht hu => (exec_inv ht).1.trans (exec_inv hu).1.symm⟩

/-! ## NOP -/

theorem decodeOp_of_nopCode {w : CycleWord} (hop : opField w = 0b00#2) : decodeOp w = .nop :=
  if_pos hop

/-- Settles O5: the cycle's events are NOP alone or TICK and NOP, by the tick bit. -/
theorem nopOnlyLetsTimePass : Obligations.NopOnlyLetsTimePass := by
  refine ⟨exec_nop, fun s w rest hw hrst hop => ?_⟩
  have hnop : decodeOp w = .nop := decodeOp_of_nopCode hop
  rw [step_of_word s w rest hw]
  cases htick : tickBit w with
  | false =>
    rw [decodeEvents_of_noTick hrst htick, hnop, runEvents_single, exec_nop]
    exact ⟨_, rfl, rfl, rfl, fun _ => rfl, fun ht => nomatch htick.symm.trans ht⟩
  | true =>
    rw [decodeEvents_of_tick hrst htick, hnop, runEvents_cons (exec_tick _), runEvents_single, exec_nop]
    exact ⟨_, rfl, rfl, rfl, fun ht => (nomatch htick.symm.trans ht), fun _ => ⟨_, exec_tick _, rfl⟩⟩

/-! ## COLLECT -/

/-- The last byte of a held frame's encoding is its accumulator (R42, R150). -/
theorem Block.Inv.encodeFrame_complete {k : Block} (hinv : k.Inv) (hk : k.state = .complete) :
    ∃ body, encodeFrame k.dst k.cmd (memBytes k.buf k.len.toNat) = some (body ++ [k.chk]) := by
  have hle : (memBytes k.buf k.len.toNat).length ≤ Config.maxPayload := by
    rw [memBytes_length]
    exact Nat.le_of_lt_succ k.len.isLt
  obtain ⟨-, -, -, -, hsum⟩ := hinv.accumulatorRight
  obtain ⟨-, hchk⟩ := hsum (.inr hk)
  rw [encodeFrame_of_le hle, hchk]
  exact ⟨_, rfl⟩

/-- Settles O23: the SDU is the stored one, and under the invariant its encoding ends in the accumulator. -/
theorem collectHandsOutTheStoredFrame : Obligations.CollectHandsOutTheStoredFrame := by
  intro s hs
  exact ⟨exec_collect_complete s hs, fun hinv => hinv.encodeFrame_complete hs⟩

/-- Outside COMPLETE the gate shows 0 whatever is behind it (R21, R34). -/
theorem gated_of_ne_complete {k : Block} (hk : k.state ≠ .complete) (v : Byte) : gated k v = 0x00#8 := by
  simp [gated, frameReady, hk]

theorem rdData_of_ne_complete {k : Block} (hk : k.state ≠ .complete) (i : Byte) : rdData k i = 0x00#8 := by
  rw [rdData, gated_of_ne_complete hk, ite_self]

/-- Settles O24: COLLECT raises InvalidState there, and every data output is gated. -/
theorem collectOutsideCompleteIsRefused : Obligations.CollectOutsideCompleteIsRefused := by
  intro s hs
  have hgate := gated_of_ne_complete hs
  exact ⟨exec_collect_refused s hs, hgate _, hgate _, hgate _, hgate _, hgate _, rdData_of_ne_complete hs⟩

/-- Settles O25: COLLECT changes the outputs only, and a second COLLECT does not read them. -/
theorem collectChangesNoRegister : Obligations.CollectChangesNoRegister := by
  intro s
  obtain ⟨o, ho⟩ := exec_spec .collect s
  exact ⟨_, ho, rfl, rfl, (exec_setOut .collect s o).trans ho⟩

end Sys2Proof.Machine

/-! PROOF. The Stream Analyzer (43_analyzer.md): it keeps nothing between chunks but the block, so a chunk may be cut
anywhere. -/

namespace Sys2Proof.Machine

/-- The Analyzer takes a chunk's first byte by ABYTE and the rest from the block that leaves (R167). -/
theorem analyze_cons (b : Byte) (c : List Byte) (k : Block) :
    analyze (b :: c) k =
      ((analyze c (abyte b k).1).1, (abyte b k).2.toList ++ (analyze c (abyte b k).1).2) :=
  rfl

/-- The second chunk is analyzed from the block the first leaves, and its SDUs come after the first's (R169). -/
theorem analyze_append (c₁ c₂ : List Byte) (k : Block) :
    analyze (c₁ ++ c₂) k =
      ((analyze c₂ (analyze c₁ k).1).1, (analyze c₁ k).2 ++ (analyze c₂ (analyze c₁ k).1).2) := by
  induction c₁ generalizing k with
  | nil => rfl
  | cons b c₁ ih => rw [List.cons_append, analyze_cons, ih, analyze_cons, List.append_assoc]

/-- Settles O49: both halves of the statement are components of `analyze_append`. -/
theorem splittingAChunkDoesNotMatter : Obligations.SplittingAChunkDoesNotMatter := by
  intro c₁ c₂ k
  rw [analyze_append]
  exact ⟨rfl, rfl⟩

end Sys2Proof.Machine

/-! PROOF. The Stopwatch (44_stopwatch.md): what one TICK does to the block. -/

namespace Sys2Proof.Machine

/-- The guard `n < wdMax` read as a number: a count is raised until it stands at 65535 (R184). -/
theorem tickNext_eq (n : TickCount) : tickNext n = if n.toNat < 65535 then n + 1#16 else n :=
  if_congr BitVec.lt_def rfl rfl

/-- R184 in one equation, its two guards under one condition. -/
theorem wdTick_eq (k : Block) :
    wdTick k = { k with
      wdCnt := if k.wdRun = true ∧ k.wdCnt.toNat < 65535 then k.wdCnt + 1#16 else k.wdCnt } := by
  by_cases hrun : k.wdRun = true
  · rw [wdTick, if_pos hrun, tickNext_eq]
    simp only [hrun, true_and]
  · rw [wdTick_of_stopped (Bool.eq_false_of_not_eq_true hrun), if_neg fun h => hrun h.1]

/-- Settles O6: `exec_tick` gives the next state with idle outputs, and `wdTick_eq` its block. -/
theorem tickCountsOnlyWhileRunning : Obligations.TickCountsOnlyWhileRunning := by
  intro s
  exact ⟨_, exec_tick s, wdTick_eq s.blk, rfl, rfl⟩

end Sys2Proof.Machine

/-! PROOF. The invariants of 10_state.md section 9, all together: `Block.Inv` holds at reset and every event keeps it,
so every cycle keeps it and every reachable state meets it. FEED is split along the rows of its transition table. -/

namespace Sys2Proof.Machine

/-! ## The parts of the invariant -/

/-- A running watchdog is right in every state but COMPLETE (R43, R44, R48). -/
theorem Block.watchdogRight_of_running {k : Block} (hrun : k.wdRun = true) (hc : k.state ≠ .complete) :
    k.watchdogRight :=
  ⟨fun _ => hrun, fun h => absurd h hc, fun h => nomatch hrun.symm.trans h⟩

/-- With every declared byte in, the checksum of the stored fields is the sum so far (R42, R102). -/
theorem checksum_received {k : Block} (h : k.cnt = k.len) :
    checksum k.dst k.cmd (memBytes k.buf k.len.toNat) = BitVec.ofNat 8 k.sumSoFar := by
  simp [checksum, Block.sumSoFar, Block.received, h]

/-- The buffer with the byte behind the last one set lists one cell more (R30, R51). -/
theorem memWrite_bufferRight {m : Memory} {n : Nat} (b : Byte) (hn : n < Config.bufDepth)
    (hlist : m.map Prod.fst = List.range n) (hwf : Memory.wf m = true) :
    (memWrite m n b).map Prod.fst = List.range (n + 1) ∧ Memory.wf (memWrite m n b) = true := by
  refine ⟨?_, memWrite_wf m n b hwf⟩
  have habove : ∀ a ∈ m.map Prod.fst, a < n := fun a ha => List.mem_range.1 (hlist ▸ ha)
  rw [memWrite, if_pos hn, Memory.insert_above m n b habove, List.map_append, hlist, List.range_succ]
  rfl

/-- A byte appended to the payload and added to the accumulator adds the same to the sum so far (R42, R128). -/
theorem sumSoFar_append {k k' : Block} {b : Byte} (hfields : k'.dst = k.dst ∧ k'.cmd = k.cmd ∧ k'.len = k.len)
    (hreceived : k'.received = k.received ++ [b]) :
    BitVec.ofNat 8 k'.sumSoFar = BitVec.ofNat 8 k.sumSoFar + b := by
  obtain ⟨hdst, hcmd, hlen⟩ := hfields
  have hsum : k'.sumSoFar = k.sumSoFar + b.toNat := by
    simp only [Block.sumSoFar, hdst, hcmd, hlen, hreceived, byteSum_append, byteSum_cons, byteSum_nil]
    omega
  rw [hsum, BitVec.ofNat_add, BitVec.ofNat_toNat, BitVec.setWidth_eq]

/-! ## At reset -/

/-- A cleared block in WAIT_SYNC with its watchdog running meets the invariant (R40, R121). -/
theorem clearedRestarted_inv : clearedRestarted.Inv where
  clearInWaitSync _ := ⟨rfl, rfl, rfl, rfl, rfl⟩
  countInBounds := ⟨nofun, by simp, by simp⟩
  accumulatorRight := ⟨nofun, nofun, nofun, nofun, by simp⟩
  watchdogRight := Block.watchdogRight_of_running rfl nofun
  bufferRight := ⟨rfl, rfl⟩

/-- Settles O1: each register by its definition; no cell is listed, so none reads as a value. -/
theorem resetStateHoldsTableValues : Obligations.ResetStateHoldsTableValues :=
  ⟨rfl, rfl, rfl, rfl, rfl, rfl, Memory.read_nil, rfl, rfl⟩

theorem Block.reset_inv : Block.reset.Inv :=
  { clearedRestarted_inv with watchdogRight := ⟨nofun, nofun, fun _ => rfl⟩ }

/-- Settles O31: the block at reset is a cleared one with its watchdog stopped at 0. -/
theorem invariantHoldsAtReset : Obligations.InvariantHoldsAtReset :=
  Block.reset_inv

/-! ## Kept by every event -/

/-- Only its own part of the invariant speaks of the watchdog (R43, R44, R48). -/
theorem Block.Inv.setWatchdog {k : Block} (h : k.Inv) (run : Bool) (n : TickCount)
    (hwd : Block.watchdogRight { k with wdRun := run, wdCnt := n }) :
    Block.Inv { k with wdRun := run, wdCnt := n } where
  clearInWaitSync := h.clearInWaitSync
  countInBounds := h.countInBounds
  accumulatorRight := h.accumulatorRight
  watchdogRight := hwd
  bufferRight := h.bufferRight

theorem Block.Inv.wdTick {k : Block} (h : k.Inv) : (wdTick k).Inv := by
  cases hrun : k.wdRun with
  | false => rwa [wdTick_of_stopped hrun]
  | true =>
    have hc : k.state ≠ .complete := fun hc => nomatch hrun.symm.trans (h.watchdogRight.2.1 hc).1
    rw [wdTick_eq, ← hrun]
    exact h.setWatchdog k.wdRun _ (Block.watchdogRight_of_running hrun hc)

/-- The marker found in a block with every other field clear (R122, R124). -/
theorem marker_inv {k : Block} (hfields : k.dst = 0#8 ∧ k.cmd = 0#8 ∧ k.len = 0#8 ∧ k.cnt = 0#8)
    (hbuf : k.bufferRight) :
    (restarted { k with chk := Config.sync, state := .waitDst }).Inv := by
  obtain ⟨hdst, hcmd, hlen, hcnt⟩ := hfields
  constructor
  · exact nofun
  · exact ⟨nofun, by simp, fun _ => ⟨hcnt, hlen⟩⟩
  · exact ⟨fun _ => ⟨rfl, hdst, hcmd⟩, nofun, nofun, nofun, by simp⟩
  · exact Block.watchdogRight_of_running rfl nofun
  · exact hbuf

/-- The header is in and the payload is coming in, or is in whole (R127, R128): what is asked there of the registers.
-/
theorem Block.inv_of_payload {k : Block}
    (hstate : k.state = .waitData ∧ k.cnt.toNat < k.len.toNat ∨ k.state = .waitChecksum ∧ k.cnt = k.len)
    (hsum : k.chk = BitVec.ofNat 8 k.sumSoFar) (hrun : k.wdRun = true) (hbuf : k.bufferRight) : k.Inv := by
  rcases hstate with ⟨hs, hlt⟩ | ⟨hs, hall⟩
  · refine ⟨by simp [hs], ⟨fun _ => ⟨Nat.zero_lt_of_lt hlt, hlt⟩, by simp [hs], by simp [hs]⟩, ?_, ?_, hbuf⟩
    · exact ⟨by simp [hs], by simp [hs], by simp [hs], fun _ => hsum, by simp [hs]⟩
    · exact Block.watchdogRight_of_running hrun (by simp [hs])
  · refine ⟨by simp [hs], ⟨by simp [hs], fun _ => hall, by simp [hs]⟩, ?_, ?_, hbuf⟩
    · exact ⟨by simp [hs], by simp [hs], by simp [hs], by simp [hs],
        fun _ => ⟨hsum, hsum.trans (checksum_received hall).symm⟩⟩
    · exact Block.watchdogRight_of_running hrun (by simp [hs])

/-- The length byte, added to the sum of the header before it (R127). -/
theorem chk_add_length {k : Block} (b : Byte) (hchk : k.chk = Config.sync + k.dst + k.cmd) :
    k.chk + b = BitVec.ofNat 8 (Config.sync.toNat + k.dst.toNat + k.cmd.toNat + b.toNat) := by
  simp [hchk, BitVec.ofNat_add]

/-- A byte fed in WAIT_DATA goes to a cell of the buffer: the payload and the list of cells are one longer (R128). -/
theorem waitData_append {k : Block} (b : Byte) (h : k.Inv) (hk : k.state = .waitData) :
    memBytes (memWrite k.buf k.cnt.toNat b) (k.cnt + 1#8).toNat = k.received ++ [b] ∧
      (memWrite k.buf k.cnt.toNat b).map Prod.fst = List.range (k.cnt + 1#8).toNat ∧
      Memory.wf (memWrite k.buf k.cnt.toNat b) = true := by
  obtain ⟨-, hlt⟩ := h.countInBounds.1 hk
  obtain ⟨hlist, hwf⟩ := h.bufferRight
  have hcell : k.cnt.toNat < Config.bufDepth := Nat.lt_of_lt_of_le hlt (Nat.le_of_lt_succ k.len.isLt)
  rw [toNat_cnt_succ hlt]
  exact ⟨memBytes_append k.buf _ b hcell, memWrite_bufferRight b hcell hlist hwf⟩

/-- WAIT_DATA's two rows: a byte more in the buffer, in the count and in the accumulator (R128). -/
theorem Block.Inv.after_data {k : Block} {b : Byte} {p : Phase} (h : k.Inv) (hk : k.state = .waitData)
    (hp : p = .waitData ∧ k.cnt.toNat + 1 < k.len.toNat ∨ p = .waitChecksum ∧ k.cnt.toNat + 1 = k.len.toNat) :
    (restarted { k with
      buf := memWrite k.buf k.cnt.toNat b, chk := k.chk + b, cnt := k.cnt + 1#8, state := p }).Inv := by
  obtain ⟨hreceived, hbuf⟩ := waitData_append b h hk
  obtain ⟨-, -, -, hsum, -⟩ := h.accumulatorRight
  have hnext := toNat_cnt_succ (h.countInBounds.1 hk).2
  refine Block.inv_of_payload ?_ ?_ rfl hbuf
  · exact hp.imp (fun hmore => ⟨hmore.1, hnext.trans_lt hmore.2⟩)
      fun hlast => ⟨hlast.1, BitVec.eq_of_toNat_eq (hnext.trans hlast.2)⟩
  · refine (congrArg (· + b) (hsum hk)).trans (Eq.symm ?_)
    exact sumSoFar_append ⟨rfl, rfl, rfl⟩ hreceived

/-- Every row of FEED's transition table keeps the invariant (R133). -/
theorem FeedRow.keeps_inv {b : Byte} {k k' : Block} (hrow : FeedRow b k k') (h : k.Inv) : k'.Inv := by
  obtain ⟨hdstAcc, hcmdAcc, hlenAcc, -, hsumAcc⟩ := h.accumulatorRight
  cases hrow with
  | timeoutMarker => exact marker_inv (k := Block.reset) ⟨rfl, rfl, rfl, rfl⟩ ⟨rfl, rfl⟩
  | timeoutNoise | checksumMismatch => exact clearedRestarted_inv
  | noise hk =>
    exact h.setWatchdog true 0#16 (Block.watchdogRight_of_running rfl (by simp [hk]))
  | marker hk => exact marker_inv (h.clearInWaitSync hk).2 h.bufferRight
  | destination hk =>
    obtain ⟨hchk, -, hcmd⟩ := hdstAcc hk
    constructor
    · exact nofun
    · exact ⟨nofun, by simp, fun _ => h.countInBounds.2.2 (.inl hk)⟩
    · exact ⟨nofun, fun _ => ⟨congrArg (· + b) hchk, hcmd⟩, nofun, nofun, by simp⟩
    · exact Block.watchdogRight_of_running rfl nofun
    · exact h.bufferRight
  | command hk =>
    obtain ⟨hchk, -⟩ := hcmdAcc hk
    constructor
    · exact nofun
    · exact ⟨nofun, by simp, fun _ => h.countInBounds.2.2 (.inr (.inl hk))⟩
    · exact ⟨nofun, nofun, fun _ => congrArg (· + b) hchk, nofun, by simp⟩
    · exact Block.watchdogRight_of_running rfl nofun
    · exact h.bufferRight
  | lengthPositive hk _ hb =>
    exact Block.inv_of_payload (.inl ⟨rfl, hb⟩) (chk_add_length b (hlenAcc hk)) rfl ⟨rfl, rfl⟩
  | lengthZero hk =>
    have hsum := (BitVec.add_zero k.chk).symm.trans (chk_add_length 0#8 (hlenAcc hk))
    exact Block.inv_of_payload (.inr ⟨rfl, rfl⟩) hsum rfl ⟨rfl, rfl⟩
  | dataMore hk _ hcnt => exact h.after_data hk (.inl ⟨rfl, hcnt⟩)
  | dataLast hk _ hcnt => exact h.after_data hk (.inr ⟨rfl, hcnt⟩)
  | checksumMatch hk =>
    constructor
    · exact nofun
    · exact ⟨nofun, fun _ => h.countInBounds.2.1 (.inl hk), by simp⟩
    · exact ⟨nofun, nofun, nofun, nofun, fun _ => hsumAcc (.inl hk)⟩
    · exact ⟨nofun, fun _ => ⟨rfl, rfl⟩, fun _ => rfl⟩
    · exact h.bufferRight
  | hold => exact h

/-- Every event keeps the invariant. -/
theorem Block.Inv.blockAfter {k : Block} (i : Instr) (h : k.Inv) : (blockAfter i k).Inv := by
  cases i with
  | rst | reset => exact Block.reset_inv
  | tick => exact h.wdTick
  | nop | collect => exact h
  | feed b => exact (feedRow_feedBlock b fun hk => (h.countInBounds.1 hk).2).keeps_inv h

theorem Block.Inv.blockAfterAll {k : Block} (es : List Instr) (h : k.Inv) : (blockAfterAll es k).Inv :=
  List.foldlRecOn es _ h fun _ hk i _ => hk.blockAfter i

/-- Taking the word of a cycle leaves the block alone (R20, R78). -/
@[simp] theorem takeWord_blk (s : State) : (takeWord s).2.blk = s.blk := by
  unfold takeWord
  split <;> rfl

/-- Settles O32: a cycle runs the events of its word, and each keeps the invariant. -/
theorem everyStepKeepsTheInvariant : Obligations.EveryStepKeepsTheInvariant := by
  intro s t hinv hstep
  obtain ⟨u, hu, hblk⟩ := runEvents_blockAfterAll (decodeEvents (takeWord s).1) (takeWord s).2
  cases hstep.symm.trans hu
  rw [State.Inv, hblk, takeWord_blk]
  exact hinv.blockAfterAll _

theorem Reachable.inv {s : State} (hs : Reachable s) : s.Inv :=
  hs.blk_induction Block.reset_inv fun i _ hk => hk.blockAfter i

/-- Settles O33: the invariant holds at reset and every event keeps it. -/
theorem reachableStatesMeetTheInvariant : Obligations.ReachableStatesMeetTheInvariant :=
  fun _ => Reachable.inv

/-! ## A completed frame is held -/

/-- Only RESET and RST change a block in COMPLETE: its watchdog is stopped, so not even a TICK does (R44, R131). -/
theorem blockAfter_of_complete {i : Instr} {k : Block} (hi : i ≠ .reset ∧ i ≠ .rst) (hk : k.state = .complete)
    (hrun : k.wdRun = false) : blockAfter i k = k := by
  cases i with
  | rst => exact absurd rfl hi.2
  | tick => exact wdTick_of_stopped hrun
  | nop | collect => rfl
  | feed b => exact congrArg Prod.fst (feedBlock_complete b k hk)
  | reset => exact absurd rfl hi.1

theorem blockAfterAll_of_complete {es : List Instr} {k : Block} (hes : ∀ e ∈ es, e ≠ .reset ∧ e ≠ .rst)
    (hk : k.state = .complete) (hrun : k.wdRun = false) : blockAfterAll es k = k := by
  induction es with
  | nil => rfl
  | cons e es ih =>
    rw [List.forall_mem_cons] at hes
    rw [blockAfterAll_cons, blockAfter_of_complete hes.1 hk hrun, ih hes.2]

/-- Settles O18: under the invariant the watchdog is stopped in COMPLETE, so no event of the run changes the block. -/
theorem completedFrameIsHeld : Obligations.CompletedFrameIsHeld := by
  intro s es hinv hk hes
  obtain ⟨t, ht, hblk, hinputs⟩ := runEvents_spec es s
  exact ⟨t, ht, hblk.trans (blockAfterAll_of_complete hes hk (hinv.watchdogRight.2.1 hk).1), hinputs⟩

end Sys2Proof.Machine

/-! PROOF. The cycle word and its encoder (30_encoding.md sections 2 and 5): the decoder reads back what the encoder
puts together, for one event, for the events of a cycle, and for a program of words; and which bits of a word are
ignored. -/

namespace Sys2Proof

/-! ## The word put together from an operation -/

theorem dinOf_feed {i : Instr} {b : Byte} (h : i = .feed b) : dinOf i = b := by
  rw [h]
  rfl

/-- An operation is read back from its code and its operand byte, whatever the other two bits are (R77, R80). -/
theorem decodeOp_operation {i : Instr} (hi : i.isOperation = true) (rst tick : Bool) :
    decodeOp (cycleWord rst tick (opCode i) (dinOf i)) = i := by
  rw [decodeOp_eq_iff hi, opField_cycleWord, dinField_cycleWord]
  exact ⟨rfl, fun b hb => (dinOf_feed hb).symm⟩

theorem decodeEvents_operation {i : Instr} (hi : i.isOperation = true) :
    decodeEvents (cycleWord false false (opCode i) (dinOf i)) = [i] := by
  rw [decodeEvents_of_noTick (rstBit_cycleWord ..) (tickBit_cycleWord ..), decodeOp_operation hi]

theorem decodeEvents_tick_operation {i : Instr} (hi : i.isOperation = true) :
    decodeEvents (cycleWord false true (opCode i) (dinOf i)) = [.tick, i] := by
  rw [decodeEvents_of_tick (rstBit_cycleWord ..) (tickBit_cycleWord ..), decodeOp_operation hi]

theorem encode_operation {i : Instr} (hi : i.isOperation = true) :
    encode i = cycleWord false false (opCode i) (dinOf i) := by
  cases i with
  | rst | tick => cases hi
  | nop | feed _ | collect | reset => rfl

theorem encodeEvents_operation {i : Instr} (hi : i.isOperation = true) :
    encodeEvents [i] = some (cycleWord false false (opCode i) (dinOf i)) := by
  cases i with
  | rst | tick => cases hi
  | nop | feed _ | collect | reset => rfl

theorem encodeEvents_tick_operation {i : Instr} (hi : i.isOperation = true) :
    encodeEvents [.tick, i] = some (cycleWord false true (opCode i) (dinOf i)) :=
  if_pos hi

/-- The event sequences of a cycle (R78): RST alone, an operation, or a tick and an operation. -/
theorem cycleWellFormed_cases {es : List Instr} (h : cycleWellFormed es = true) :
    es = [.rst] ∨ ∃ i, i.isOperation = true ∧ (es = [i] ∨ es = [.tick, i]) := by
  match es, h with
  | [.rst], _ => exact .inl rfl
  | [.nop], _ | [.feed _], _ | [.collect], _ | [.reset], _ => exact .inr ⟨_, rfl, .inl rfl⟩
  | [.tick, i], h => exact .inr ⟨i, h, .inr rfl⟩

/-! ## One event and its word -/

/-- What a word without a tick, or of RST, is read as is its one event. -/
theorem decode_of_decodeEvents_single {w : CycleWord} {i : Instr} (h : decodeEvents w = [i]) : decode w = i := by
  cases hr : rstBit w with
  | true =>
    rw [decodeEvents_of_rst hr, List.singleton_inj] at h
    simp [decode, hr, h]
  | false =>
    cases ht : tickBit w with
    | true => simp [decodeEvents_of_tick hr ht] at h
    | false =>
      rw [decodeEvents_of_noTick hr ht, List.singleton_inj] at h
      simp [decode, hr, ht, h]

theorem decodeEvents_encode_tick : decodeEvents (encode .tick) = [.tick, .nop] := by decide

theorem decodeEvents_encode {i : Instr} (hi : i ≠ .tick) : decodeEvents (encode i) = [i] := by
  cases i with
  | rst => decide
  | tick => exact absurd rfl hi
  | nop | feed _ | collect | reset => rw [encode_operation rfl, decodeEvents_operation rfl]

theorem decode_encode (i : Instr) : decode (encode i) = i := by
  by_cases hi : i = .tick
  · rw [hi]
    decide
  · exact decode_of_decodeEvents_single (decodeEvents_encode hi)

/-- A table word of at least twelve bits is read as the cycle word it is (R76). -/
theorem decodeTableWord_toNat {nbits : Nat} (h : 12 ≤ nbits) (w : CycleWord) :
    decodeTableWord nbits w.toNat = some (decode w) := by
  have hmod : w.toNat % 2 ^ nbits = w.toNat :=
    Nat.mod_eq_of_lt (w.isLt.trans_le (Nat.pow_le_pow_right (by decide) h))
  have hword : cycleWordOfNat w.toNat = .ok w := by simp [cycleWordOfNat, isCycleWord, w.isLt]
  rw [decodeTableWord, hmod, hword]

/-! ## The events of a cycle and their word -/

theorem encodeEvents_decode {es : List Instr} (h : cycleWellFormed es = true) :
    ∃ w, encodeEvents es = some w ∧ decodeEvents w = es := by
  obtain rfl | ⟨i, hi, rfl | rfl⟩ := cycleWellFormed_cases h
  · exact ⟨_, rfl, decodeEvents_encode nofun⟩
  · exact ⟨_, encodeEvents_operation hi, decodeEvents_operation hi⟩
  · exact ⟨_, encodeEvents_tick_operation hi, decodeEvents_tick_operation hi⟩

/-- Encoding what a word without RST stands for gives the word back, but for a `din` that is no operand (R78, R80). -/
theorem encodeEvents_decodeEvents {w : CycleWord} (hr : rstBit w = false) :
    encodeEvents (decodeEvents w) = some (cycleWord false (tickBit w) (opField w) (dinOf (decodeOp w))) := by
  have hop := decodeOp_isOperation w
  cases ht : tickBit w with
  | true => rw [decodeEvents_of_tick hr ht, encodeEvents_tick_operation hop, opCode_decodeOp]
  | false => rw [decodeEvents_of_noTick hr ht, encodeEvents_operation hop, opCode_decodeOp]

theorem decodeOp_of_feedCode {w : CycleWord} (hop : opField w = 0b01#2) : decodeOp w = .feed (dinField w) := by
  simp [decodeOp, hop]

/-- Settles O42: an event's word by `decode_encode`, a cycle's by `encodeEvents_decode`, and a word's way there and
back by `encodeEvents_decodeEvents`, whose fields are those of the word. -/
theorem decodeAndEncodeAgree : Obligations.DecodeAndEncodeAgree := by
  refine ⟨fun i _ => ?_, fun es => encodeEvents_decode, fun w => ?_⟩
  · rw [decodeTableWord_toNat (by decide), decodeTableWord_toNat (by decide), decode_encode]
    exact ⟨rfl, rfl, rfl⟩
  · obtain ⟨w', henc, hdec⟩ := encodeEvents_decode (cycleWellFormed_decodeEvents w)
    refine ⟨w', henc, hdec, ?_⟩
    cases hr : rstBit w with
    | true =>
      have hrst : rstBit w' = true := by rw [← rst_mem_decodeEvents, hdec, rst_mem_decodeEvents, hr]
      exact ⟨hrst.trans hr.symm, fun hfalse => nomatch hr.symm.trans hfalse⟩
    | false =>
      cases henc.symm.trans (encodeEvents_decodeEvents hr)
      refine ⟨(rstBit_cycleWord ..).trans hr.symm, fun _ => ⟨tickBit_cycleWord .., opField_cycleWord .., fun hop => ?_⟩⟩
      rw [decodeOp_of_feedCode hop]
      exact (congrArg (cycleWord · _ _ _) hr.symm).trans (cycleWord_fields w)

/-- Settles O40: eleven closed words. -/
theorem writtenWordsDecodeAsTheTableSays : Obligations.WrittenWordsDecodeAsTheTableSays := by
  unfold Obligations.WrittenWordsDecodeAsTheTableSays
  decide

end Sys2Proof

/-! PROOF. One cycle after another (R78, R89): what a step runs, that presenting words is running their events, and
that the words to come and the outputs, which no event reads, do not change what an event does. -/

namespace Sys2Proof.Machine

/-! ## What an event leaves alone -/

/-- The words still to come are carried along unread (R60, R78). -/
theorem exec_setInputs {i : Instr} {s t : State} (h : exec i s = .next t) (ws : List CycleWord) :
    exec i { s with inputs := ws } = .next { t with inputs := ws } := by
  cases i with
  | rst | tick | nop | feed _ | reset =>
    cases h
    rfl
  | collect =>
    by_cases hc : s.blk.state = .complete
    · cases (exec_collect_complete s hc).symm.trans h
      exact exec_collect_complete { s with inputs := ws } hc
    · cases (exec_collect_refused s hc).symm.trans h
      exact exec_collect_refused { s with inputs := ws } hc

/-- Settles O30: the outputs by `exec_setOut`, the words to come by `exec_setInputs`. -/
theorem noEventReadsTheOutputs : Obligations.NoEventReadsTheOutputs := by
  intro i s o ws
  exact ⟨exec_setOut i s o, fun _ h => exec_setInputs h ws⟩

theorem wdTick_eq_setCount (k : Block) : wdTick k = { k with wdCnt := (wdTick k).wdCnt } := by
  rw [wdTick_eq]

/-- Settles O28: the block after an event is `blockAfter`, which is the block before for NOP and COLLECT. -/
theorem onlyListedEventsWrite : Obligations.OnlyListedEventsWrite := by
  intro i s
  obtain ⟨o, ho⟩ := exec_spec i s
  refine ⟨_, ho, rfl, ?_, ?_⟩
  · rintro (rfl | rfl) <;> rfl
  · rintro rfl
    exact wdTick_eq_setCount s.blk

/-! ## The word of one event -/

/-- A tick alone is the word of TICK and NOP, and the NOP adds nothing (R89, R158). -/
theorem runEvents_tick_nop (s : State) : runEvents [.tick, .nop] s = exec .tick s := by
  rw [runEvents_cons (exec_tick s), runEvents_single, exec_nop, exec_tick]

theorem runEvents_encode (i : Instr) (s : State) : runEvents (decodeEvents (encode i)) s = exec i s := by
  by_cases hi : i = .tick
  · rw [hi, decodeEvents_encode_tick, runEvents_tick_nop]
  · rw [decodeEvents_encode hi, runEvents_single]

/-- A word without a tick beside an operation runs what it is read as (R79). -/
theorem runEvents_decode {w : CycleWord} (h : tickBit w = false ∨ decode w = .tick ∨ decode w = .rst) (s : State) :
    runEvents (decodeEvents w) s = exec (decode w) s := by
  cases hr : rstBit w with
  | true => rw [decodeEvents_of_rst hr, runEvents_single, decode_of_decodeEvents_single (decodeEvents_of_rst hr)]
  | false =>
    cases ht : tickBit w with
    | false =>
      have hw := decodeEvents_of_noTick hr ht
      rw [hw, runEvents_single, decode_of_decodeEvents_single hw]
    | true =>
      by_cases hop : opField w = 0b00#2
      · have hdec : decode w = .tick := by simp [decode, hr, ht, hop]
        rw [decodeEvents_of_tick hr ht, decodeOp_of_nopCode hop, hdec, runEvents_tick_nop]
      · have hdec : decode w = decodeOp w := by simp [decode, hr, hop]
        rw [ht, hdec] at h
        exact absurd h (by simp [decodeOp_ne_of_not_operation .tick rfl, decodeOp_ne_of_not_operation .rst rfl])

/-- A word read as an operation, with a tick beside it, is a TICK and then that operation (R78). -/
theorem decodeEvents_of_tick_operation {w : CycleWord} (ht : tickBit w = true) (hne : decode w ≠ .tick)
    (hne' : decode w ≠ .rst) : decodeEvents w = [.tick, decode w] := by
  have hr : rstBit w = false := Bool.eq_false_of_not_eq_true fun hr => hne' (by simp [decode, hr])
  have hop : opField w ≠ 0b00#2 := fun hop => hne (by simp [decode, hr, ht, hop])
  rw [decodeEvents_of_tick hr ht]
  simp [decode, hr, hop]

/-- Presenting an event's word and taking it is running the event (R60, R89). -/
theorem step_encode {i : Instr} {s : State} {rest : List CycleWord} (h : s.inputs = encode i :: rest) :
    step s = exec i { s with inputs := rest } := by
  rw [step_of_word s _ rest h, runEvents_encode]

/-- A cycle word has twelve bits, so presenting it as a number of sixteen presents it whole (R76). -/
theorem withFetchWord_toNat (s : State) (w : CycleWord) : s.withFetchWord 16 w.toNat = presentWord s w := by
  have hmod : w.toNat % 2 ^ 16 = w.toNat := Nat.mod_eq_of_lt (w.isLt.trans (by decide))
  rw [State.withFetchWord, hmod, BitVec.ofNat_toNat, BitVec.setWidth_eq]

/-- Settles O37: by `runEvents_decode`, by `decodeEvents_of_tick_operation` where a tick stands beside an operation,
and by `step_encode` for a presented word. -/
theorem stepRunsTheDecodedInstruction : Obligations.StepRunsTheDecodedInstruction := by
  refine ⟨fun s w rest i hw hi => ⟨fun h => ?_, fun ht hne hne' => ⟨_, exec_tick _, ?_⟩⟩, fun s hs => ?_, fun i s => ?_⟩
  · subst hi
    rw [step_of_word s w rest hw, runEvents_decode h]
  · subst hi
    rw [step_of_word s w rest hw, decodeEvents_of_tick_operation ht hne hne', runEvents_cons (exec_tick _),
      runEvents_single]
  · rw [step_of_none s hs]
    exact runEvents_encode .nop s
  · rw [withFetchWord_toNat]
    exact step_encode (presentWord_inputs s (encode i))

/-! ## Many cycles -/

/-- A run goes on from the state its first step answers. -/
theorem run_cons {M : Host.Core} {s t : M.State} (h : M.step s = .next t) (n : Nat) : M.run (n + 1) s = M.run n t := by
  simp only [Host.Core.run, h]

/-- Settles O38, by induction over the events: each step takes one word and runs its event. -/
theorem presentingWordsRunsTheirEvents : Obligations.PresentingWordsRunsTheirEvents := by
  intro es s rest
  induction es generalizing s with
  | nil => rfl
  | cons i es ih =>
    obtain ⟨o, ho⟩ := exec_spec i { s with inputs := rest }
    have hstep : step { s with inputs := (i :: es).map encode ++ rest } = _ :=
      (step_encode rfl).trans (exec_setInputs ho (es.map encode ++ rest))
    exact (run_cons (M := Sys2Proof.core) hstep es.length).trans ((ih _).trans (runEvents_cons ho).symm)

/-- Every step answers a next state: its events do (R201). -/
theorem exists_step (s : State) : ∃ t, step s = .next t := by
  obtain ⟨t, ht, -⟩ := runEvents_spec (decodeEvents (takeWord s).1) (takeWord s).2
  exact ⟨t, ht⟩

/-- Settles O39, by induction over the cycles. -/
theorem noCycleEverStopsTheMachine : Obligations.NoCycleEverStopsTheMachine := by
  intro n s
  induction n generalizing s with
  | zero => exact ⟨s, rfl⟩
  | succ n ih =>
    obtain ⟨t, ht⟩ := exists_step s
    obtain ⟨u, hu⟩ := ih t
    exact ⟨u, (run_cons (M := Sys2Proof.core) ht n).trans hu⟩

/-! ## RST and the ignored bits -/

/-- Settles O2: `exec_rst`, and a word with `rst` = 1 has RST as its one event. -/
theorem rstGivesResetStateAndOverrides : Obligations.RstGivesResetStateAndOverrides := by
  refine ⟨exec_rst, fun s w rest hw hr => ?_⟩
  rw [step_of_word s w rest hw, decodeEvents_of_rst hr, runEvents_single]

/-- The three control fields are parts of `W[11:8]` (R76). -/
theorem control_fields_of_extract {w w' : CycleWord} (h : w.extractLsb' 8 4 = w'.extractLsb' 8 4) :
    rstBit w = rstBit w' ∧ tickBit w = tickBit w' ∧ opField w = opField w' := by
  have hbit (j : Nat) (hj : j < 4) : w.getLsbD (8 + j) = w'.getLsbD (8 + j) := by
    simpa [hj] using congrArg (BitVec.getLsbD · j) h
  refine ⟨hbit 3 (by decide), hbit 2 (by decide), BitVec.eq_of_getLsbD_eq fun j hj => ?_⟩
  simpa [opField, hj] using hbit j (by omega)

/-- Without FEED's code, `op` alone names the operation (R77). -/
theorem decodeOp_congr {w w' : CycleWord} (h : opField w = opField w') (hne : opField w ≠ 0b01#2) :
    decodeOp w = decodeOp w' := by
  simp [decodeOp, ← h, hne]

/-- Settles O43: in both cases the two words stand for the same events. -/
theorem ignoredBitsAreIgnored : Obligations.IgnoredBitsAreIgnored := by
  intro s w w' rest h
  have hevents : decodeEvents w = decodeEvents w' := by
    rcases h with ⟨hr, hr'⟩ | ⟨hcontrol, hne⟩
    · rw [decodeEvents_of_rst hr, decodeEvents_of_rst hr']
    · obtain ⟨hrst, htick, hop⟩ := control_fields_of_extract hcontrol
      rw [decodeEvents, decodeEvents, hrst, htick, decodeOp_congr hop hne]
  rw [step_of_word _ w rest rfl, step_of_word _ w' rest rfl, hevents]

end Sys2Proof.Machine

/-! PROOF. Pulses and time (60_exceptions.md, 44_stopwatch.md): which pulses a FEED sets, that only a FEED
resynchronises, which cell a FEED writes, and how many ticks make a timeout. -/

namespace Sys2Proof.Machine

/-! ## The pulses of FEED (R202, R208) -/

/-- Each pulse of a FEED and its cause, on the block. -/
theorem feedBlock_pulses (b : Byte) (k : Block) :
    ((feedBlock b k).2.timeout = true ↔ k.state ≠ .complete ∧ timedOut k = true) ∧
    ((feedBlock b k).2.completeDrop = true ↔ k.state = .complete) ∧
    ((feedBlock b k).2.frameOk = true ↔ k.state ≠ .complete ∧ (feedBlock b k).1.state = .complete) ∧
    ((feedBlock b k).2.chkFail = true ↔ k.state = .waitChecksum ∧ timedOut k = false ∧ b ≠ k.chk) ∧
    ((feedBlock b k).2.noiseDrop = true ↔
      b ≠ Config.sync ∧ (k.state = .waitSync ∨ (k.state ≠ .complete ∧ timedOut k = true))) ∧
    ((feedBlock b k).2.syncFound = true ↔
      b = Config.sync ∧ (k.state = .waitSync ∨ (k.state ≠ .complete ∧ timedOut k = true))) ∧
    (feedBlock b k).2.collectErr = false := by
  rcases feedBlock_cases b k with ⟨hk, h⟩ | ⟨hk, ht, hb, h⟩ | ⟨hk, ht, hb, h⟩ | ⟨ht, hk, hb, h⟩ | ⟨ht, hk, hb, h⟩ |
    ⟨ht, hk, h⟩ | ⟨ht, hk, h⟩ | ⟨ht, hk, h⟩ | ⟨ht, hk, h⟩ | ⟨ht, hk, hb, h⟩ | ⟨ht, hk, hb, h⟩ <;> rw [h]
  case inl => simp [hk]
  case inr.inl | inr.inr.inl | inr.inr.inr.inl | inr.inr.inr.inr.inl => simp [hk, ht, hb]
  · simp [hk, ht]
  · simp [hk, ht]
  · dsimp only; split <;> simp [hk, ht]
  · dsimp only; split <;> simp [hk, ht]
  · simp [hk, ht, hb]
  · simp [hk, ht, hb]

theorem feedBlock_timeout_iff {b : Byte} {k : Block} (hk : k.state ≠ .complete) :
    (feedBlock b k).2.timeout = true ↔ timedOut k = true :=
  (feedBlock_pulses b k).1.trans (and_iff_right hk)

/-- Two pulses come together only where a timeout's byte is then judged in WAIT_SYNC (R208). -/
theorem feedBlock_pulse_count (b : Byte) (k : Block) :
    (feedBlock b k).2.count ≤ 2 ∧ ((feedBlock b k).2.count = 2 →
      (feedBlock b k).2.timeout = true ∧ ((feedBlock b k).2.noiseDrop = true ∨ (feedBlock b k).2.syncFound = true)) := by
  rcases feedBlock_cases b k with ⟨-, h⟩ | ⟨-, -, -, h⟩ | ⟨-, -, -, h⟩ | ⟨-, -, -, h⟩ | ⟨-, -, -, h⟩ | ⟨-, -, h⟩ |
    ⟨-, -, h⟩ | ⟨-, -, h⟩ | ⟨-, -, h⟩ | ⟨-, -, -, h⟩ | ⟨-, -, -, h⟩ <;> rw [h] <;> dsimp only <;> decide

theorem exec_collect_pulses {s t : State} (h : exec .collect s = .next t) :
    (t.out.ev.collectErr = true ↔ s.blk.state ≠ .complete) ∧ t.out.ev.count = t.out.ev.collectErr.toNat := by
  by_cases hc : s.blk.state = .complete
  · cases (exec_collect_complete s hc).symm.trans h
    exact ⟨iff_of_false nofun (fun hne => hne hc), rfl⟩
  · cases (exec_collect_refused s hc).symm.trans h
    exact ⟨iff_of_true rfl hc, rfl⟩

/-- NOP, RESET, TICK and RST are quiet (R158, R155, R184, R230). -/
theorem exec_quiet {i : Instr} {s t : State} (hi : i = .nop ∨ i = .reset ∨ i = .tick ∨ i = .rst)
    (h : exec i s = .next t) : t.out.ev = Pulses.quiet := by
  rcases hi with rfl | rfl | rfl | rfl <;> cases h <;> rfl

/-- Settles O21: the pulses of a FEED by `feedBlock_pulses`, the timeout test read as a number. -/
theorem pulsesNameTheirCauses : Obligations.PulsesNameTheirCauses := by
  refine ⟨fun b s t ht => ?_, fun s t => exec_collect_pulses, fun i s t hi ht => ?_⟩
  · cases (exec_feed b s).symm.trans ht
    obtain ⟨htimeout, hdrop, hok, hfail, hnoise, hsync, hcollect⟩ := feedBlock_pulses b s.blk
    rw [timedOut_iff] at htimeout hnoise hsync
    rw [timedOut_eq_false_iff] at hfail
    obtain ⟨hle, htwo⟩ := feedBlock_pulse_count b s.blk
    exact ⟨htimeout, hdrop, hok, hfail, hnoise, hsync, hcollect, hle, htwo⟩
  · rw [exec_quiet hi ht]
    rfl

/-! ## Resynchronisation -/

/-- What a FEED leaves that resynchronises: a mismatch or noise a cleared block, a marker the start of a frame (R209).
-/
theorem feedBlock_resynchronises {b : Byte} {k : Block}
    (h : (feedBlock b k).2.timeout = true ∨ (feedBlock b k).2.chkFail = true) :
    (feedBlock b k).1 = clearedRestarted ∨
      ((feedBlock b k).2.timeout = true ∧
        (feedBlock b k).1 = { clearedRestarted with chk := Config.sync, state := .waitDst }) := by
  obtain ⟨htimeout, -, -, hfail, -⟩ := feedBlock_pulses b k
  rw [htimeout, hfail] at h
  rcases h with ⟨hk, ht⟩ | ⟨hk, ht, hb⟩
  · by_cases hb : b = Config.sync
    · rw [hb, feedBlock_timeoutMarker hk ht]
      exact .inr ⟨rfl, rfl⟩
    · rw [feedBlock_timeoutNoise hk ht hb]
      exact .inl rfl
  · rw [feedBlock_checksumMismatch ht hk hb]
    exact .inl rfl

/-- An event other than FEED sets neither pulse of a resynchronisation (R202, R209). -/
theorem exec_not_feed_pulses {i : Instr} {s t : State} (hi : ∀ b, i ≠ .feed b) (h : exec i s = .next t) :
    t.out.ev.timeout = false ∧ t.out.ev.chkFail = false := by
  cases i with
  | feed b => exact absurd rfl (hi b)
  | rst | tick | nop | reset =>
    cases h
    exact ⟨rfl, rfl⟩
  | collect =>
    by_cases hc : s.blk.state = .complete
    · cases (exec_collect_complete s hc).symm.trans h
      exact ⟨rfl, rfl⟩
    · cases (exec_collect_refused s hc).symm.trans h
      exact ⟨rfl, rfl⟩

theorem ticks_passing (n : Nat) : (ticks n).all passing = true := by
  simp [ticks, passing]

theorem tickCount_ticks (n : Nat) : tickCount (ticks n) = n :=
  List.count_replicate_self

/-- Settles O22: FEED by `feedBlock_resynchronises`; TICKs are passing events, which leave all but the count alone. -/
theorem resynchronisationOnlyInsideFeed : Obligations.ResynchronisationOnlyInsideFeed := by
  refine ⟨fun i s t ht hpulse => ?_, fun n s => ?_⟩
  · by_cases hi : ∀ b, i ≠ .feed b
    · obtain ⟨hnoTimeout, hnoFail⟩ := exec_not_feed_pulses hi ht
      rw [hnoTimeout, hnoFail] at hpulse
      exact absurd hpulse (by decide)
    · obtain ⟨b, rfl⟩ := not_forall_not.1 hi
      cases (exec_feed b s).symm.trans ht
      refine ⟨⟨b, rfl⟩, ?_⟩
      rcases feedBlock_resynchronises hpulse with h | ⟨htimeout, h⟩ <;> dsimp only <;> rw [h]
      · exact ⟨rfl, rfl, rfl, rfl, rfl, rfl, rfl, .inl ⟨rfl, rfl⟩⟩
      · exact ⟨rfl, rfl, rfl, rfl, rfl, rfl, rfl, .inr ⟨htimeout, rfl, rfl⟩⟩
  · obtain ⟨t, ht, hblk⟩ := runEvents_blockAfterAll (ticks n) s
    obtain ⟨m, hm, -⟩ := blockAfterAll_passing (ticks_passing n) s.blk
    rw [hm] at hblk
    exact ⟨t, ht, by rw [hblk], by rw [hblk]; rfl⟩

/-- Settles O9: the two rows of a timeout. -/
theorem feedAfterTimeoutStartsAfresh : Obligations.FeedAfterTimeoutStartsAfresh := by
  intro s b hk hcnt
  have ht := (timedOut_iff s.blk).2 hcnt
  refine ⟨?_, fun hb => exec_feed_of_feedBlock (feedBlock_timeoutNoise hk ht hb)⟩
  rintro rfl
  exact exec_feed_of_feedBlock (feedBlock_timeoutMarker hk ht)

/-! ## Which cell a FEED writes -/

/-- The buffer after a FEED: written at `cnt` in WAIT_DATA, else cleared with its count or as it was (R51, R121,
R128). -/
theorem feedBlock_buf (b : Byte) (k : Block) :
    ((feedBlock b k).1.buf = [] ∧ (feedBlock b k).1.cnt = 0#8) ∨
      (k.state = .waitData ∧ timedOut k = false ∧ (feedBlock b k).1.buf = memWrite k.buf k.cnt.toNat b) ∨
      (feedBlock b k).1.buf = k.buf := by
  rcases feedBlock_cases b k with ⟨-, h⟩ | ⟨-, -, -, h⟩ | ⟨-, -, -, h⟩ | ⟨-, -, -, h⟩ | ⟨-, -, -, h⟩ | ⟨-, -, h⟩ |
    ⟨-, -, h⟩ | ⟨-, -, h⟩ | ⟨ht, hk, h⟩ | ⟨-, -, -, h⟩ | ⟨-, -, -, h⟩ <;> rw [h]
  case inl => exact .inr (.inr rfl)
  · exact .inl ⟨rfl, rfl⟩
  · exact .inl ⟨rfl, rfl⟩
  · exact .inr (.inr rfl)
  · exact .inr (.inr rfl)
  · exact .inr (.inr rfl)
  · exact .inr (.inr rfl)
  · exact .inl ⟨rfl, rfl⟩
  · exact .inr (.inl ⟨hk, ht, rfl⟩)
  · exact .inr (.inr rfl)
  · exact .inl ⟨rfl, rfl⟩

/-- Settles O29: RST and RESET clear, FEED does what `feedBlock_buf` says, and the other events keep the buffer. -/
theorem onlyFeedInWaitDataStores : Obligations.OnlyFeedInWaitDataStores := by
  intro i s t ht
  rw [(exec_inv ht).1]
  cases i with
  | rst | reset => exact .inl ⟨rfl, rfl⟩
  | tick => exact .inr (.inr fun a => congrArg (Memory.read · a) (wdTick_buf s.blk))
  | nop | collect => exact .inr (.inr fun _ => rfl)
  | feed b =>
    rcases feedBlock_buf b s.blk with h | ⟨hk, hintime, h⟩ | h
    · exact .inl h
    · refine .inr (.inl ⟨b, rfl, hk, (timedOut_eq_false_iff s.blk).1 hintime, fun hcell => ?_, fun a ha => ?_⟩)
      · rw [blockAfter, h, read_memWrite_same _ _ b (Nat.lt_succ_of_le hcell)]
      · rw [blockAfter, h, read_memWrite_other _ _ a b ha]
    · exact .inr (.inr fun a => congrArg (Memory.read · a) h)

/-! ## Ticks and the timeout -/

/-- A running watchdog after a gap: the ticks are added, saturating, and the saturated count stands to the threshold as
the unbounded one does (R32, R184). -/
theorem timedOut_after_gap {gap : List Instr} (hgap : gap.all passing = true) {k : Block} (hrun : k.wdRun = true) :
    blockAfterAll gap k = { k with wdCnt := BitVec.ofNat 16 (min (k.wdCnt.toNat + tickCount gap) 65535) } ∧
      (timedOut (blockAfterAll gap k) = true ↔ 1000 < k.wdCnt.toNat + tickCount gap) := by
  obtain ⟨n, hn, hcnt⟩ := blockAfterAll_passing_running hgap hrun
  have hmax : n.toNat = min (k.wdCnt.toNat + tickCount gap) 65535 := hcnt
  have hthreshold : Config.timeoutTicks.toNat = 1000 := rfl
  rw [hn, timedOut_iff, ← hmax, hthreshold]
  refine ⟨by simp, ?_⟩
  dsimp only
  omega

/-- Settles O7: n TICKs are a gap of n ticks. -/
theorem ticksAddUpAndSaturate : Obligations.TicksAddUpAndSaturate := by
  intro n s hrun
  obtain ⟨t, ht, hblk, hinputs⟩ := runEvents_spec (ticks n) s
  obtain ⟨hafter, htimed⟩ := timedOut_after_gap (ticks_passing n) hrun
  rw [tickCount_ticks] at hafter htimed
  exact ⟨t, ht, hblk.trans hafter, hinputs, by rw [hblk]; exact htimed⟩

/-- Settles O8: the first FEED leaves the watchdog running at 0, so the second finds the ticks of the gap. -/
theorem timeoutIsExactlyMoreThanThousandTicks : Obligations.TimeoutIsExactlyMoreThanThousandTicks := by
  intro s t u v b c gap hs ht hc hgap hu hv
  have htblk : t.blk = (feedBlock b s.blk).1 := (exec_inv ht).1
  obtain ⟨hzero, hstop⟩ := feedBlock_watchdog b hs
  rw [← htblk] at hzero hstop
  have hrun : t.blk.wdRun = true := Bool.eq_true_of_not_eq_false fun h => hc (hstop h)
  obtain ⟨u', hu', hublk⟩ := runEvents_blockAfterAll gap t
  cases hu.symm.trans hu'
  obtain ⟨hafter, htimed⟩ := timedOut_after_gap hgap hrun
  rw [← hublk] at hafter htimed
  cases (exec_feed c u).symm.trans hv
  have hstate : u.blk.state ≠ .complete := by rw [hafter]; exact hc
  rw [feedBlock_timeout_iff hstate, htimed, hzero, BitVec.toNat_zero, Nat.zero_add]

end Sys2Proof.Machine

/-! PROOF. The outputs (10_state.md R34, 20_memory.md R53): gated by COMPLETE, and there showing what COLLECT returns.
-/

namespace Sys2Proof.Machine

theorem frameReady_iff (k : Block) : frameReady k = true ↔ k.state = .complete :=
  beq_iff_eq

theorem gated_of_complete {k : Block} (hk : k.state = .complete) (v : Byte) : gated k v = v :=
  if_pos ((frameReady_iff k).2 hk)

/-- Below the count, `rd_data` is the gated cell (R53). -/
theorem rdData_of_lt {k : Block} {i : Byte} (h : i.toNat < k.cnt.toNat) :
    rdData k i = gated k (memRead k.buf i.toNat) :=
  if_pos h

theorem rdData_of_ge {k : Block} {i : Byte} (h : k.cnt.toNat ≤ i.toNat) : rdData k i = 0x00#8 :=
  if_neg (Nat.not_lt.2 h)

/-- Settles O26: in COMPLETE the gate is open, elsewhere it is shut. -/
theorem outputsAreGatedByComplete : Obligations.OutputsAreGatedByComplete := by
  intro k i
  refine ⟨rfl, frameReady_iff k, fun hk => ?_, fun hk => ?_⟩
  · have hgate := gated_of_complete hk
    exact ⟨hgate _, hgate _, hgate _, hgate _, hgate _, fun hlt => (rdData_of_lt hlt).trans (hgate _), rdData_of_ge⟩
  · have hgate := gated_of_ne_complete hk
    exact ⟨hgate _, hgate _, hgate _, hgate _, hgate _, rdData_of_ne_complete hk i⟩

/-- A cell of the payload was written: reading it gives its byte, no free value (R30, R52). -/
theorem Block.Inv.read_of_lt {k : Block} (h : k.Inv) {a : Nat} (ha : a < k.cnt.toNat) :
    Memory.read k.buf a = some (memRead k.buf a) := by
  have hlisted : a ∈ k.buf.map Prod.fst := by
    rw [h.bufferRight.1]
    exact List.mem_range.2 ha
  obtain ⟨v, hv⟩ := Option.isSome_iff_exists.1 ((Memory.read_isSome k.buf a).2 hlisted)
  rw [hv, memRead_of_read _ _ _ hv]

theorem memBytes_getElem? (m : Memory) {n a : Nat} (ha : a < n) : (memBytes m n)[a]? = some (memRead m a) := by
  simp [memBytes, ha]

/-- Settles O27: the SDU is built from the registers and cells that the open gate shows, and in COMPLETE the count is
the length. -/
theorem outputsShowTheCollectedSdu : Obligations.OutputsShowTheCollectedSdu := by
  intro s t hinv hk ht
  cases (exec_collect_complete s hk).symm.trans ht
  have hgate := gated_of_complete hk
  have hcnt : s.blk.cnt = oLen s.blk := (hinv.countInBounds.2.1 (.inr hk)).trans (hgate _).symm
  have hlen : s.blk.len = oLen s.blk := (hgate _).symm
  obtain ⟨-, -, -, -, hsum⟩ := hinv.accumulatorRight
  refine ⟨storedSdu s.blk, rfl, (hgate _).symm, (hgate _).symm, (hgate _).symm, ?_, ?_, fun i hi => ?_, fun i hi => ?_⟩
  · rw [← hlen]
    exact memBytes_length ..
  · exact (hsum (.inr hk)).2.symm.trans (hgate _).symm
  · rw [← hcnt] at hi
    rw [rdData_of_lt hi, hgate, hinv.read_of_lt hi]
    rw [hcnt, ← hlen] at hi
    exact ⟨memBytes_getElem? _ hi, rfl⟩
  · rw [← hcnt] at hi
    exact rdData_of_ge hi

end Sys2Proof.Machine

/-! PROOF. The Analyzer on whole streams (43_analyzer.md, 60_exceptions.md section 5): it is never left in COMPLETE,
it is its expansion into events, it finds the frames between noise, and it drops a frame with a corrupted byte. -/

namespace Sys2Proof.Machine

/-! ## Never in COMPLETE -/

theorem abyte_ne_complete (b : Byte) (k : Block) : (abyte b k).1.state ≠ .complete := by
  by_cases h : (feedBlock b k).1.state = .complete
  · rw [abyte_of_complete h]
    exact nofun
  · rwa [abyte_of_not_complete h]

theorem analyze_ne_complete (c : List Byte) {k : Block} (hk : k.state ≠ .complete) :
    (analyze c k).1.state ≠ .complete := by
  induction c generalizing k with
  | nil => exact hk
  | cons b c ih => exact ih (abyte_ne_complete b k)

/-- Settles O50: ABYTE resets what its FEED completes, so a chunk stays outside COMPLETE, where no byte is dropped for
a waiting frame. -/
theorem analyzerNeverLeavesComplete : Obligations.AnalyzerNeverLeavesComplete := by
  refine ⟨abyte_ne_complete, fun b k hk => ?_, fun c₁ c₂ b k hk => ⟨analyze_ne_complete _ hk, ?_⟩⟩
  · have hfeed := feedBlock_complete b k hk
    rw [abyte_of_complete (by rw [hfeed]; exact hk), hfeed]
    rfl
  · obtain ⟨-, hdrop, -⟩ := feedBlock_pulses b (analyze c₁ k).1
    exact Bool.eq_false_of_not_eq_true fun h => analyze_ne_complete c₁ hk (hdrop.1 h)

/-! ## The expansion into events -/

/-- The SDUs of a run of two lists are those of the first, then those of the second. -/
theorem collected_append {es fs : List Instr} {s t : State} (h : runEvents es s = .next t) :
    collected (es ++ fs) s = collected es s ++ collected fs t := by
  induction es generalizing s with
  | nil =>
    cases h
    rfl
  | cons i es ih =>
    obtain ⟨o, ho⟩ := exec_spec i s
    rw [runEvents_cons ho] at h
    rw [List.cons_append, collected_cons ho, collected_cons ho, ih h, List.append_assoc]

/-- ABYTE is its expansion: FEED, and on COMPLETE also COLLECT and RESET (R90, R165). -/
theorem runEvents_abyteEvents (b : Byte) (s : State) :
    (∃ t, runEvents (abyteEvents b s.blk) s = .next t ∧ t.blk = (abyte b s.blk).1 ∧ t.inputs = s.inputs) ∧
      collected (abyteEvents b s.blk) s = (abyte b s.blk).2.toList := by
  by_cases h : (feedBlock b s.blk).1.state = .complete
  · have hevents : abyteEvents b s.blk = [.feed b, .collect, .reset] := if_pos h
    rw [hevents, abyte_of_complete h]
    have hreset := (runEvents_cons (exec_feed b s)).trans
      ((runEvents_cons (exec_collect_complete _ h)).trans ((runEvents_single ..).trans (exec_reset _)))
    refine ⟨⟨_, hreset, rfl, rfl⟩, ?_⟩
    rw [collected_cons (exec_feed b s), collected_cons (exec_collect_complete _ h), collected_cons (exec_reset _)]
    rfl
  · have hevents : abyteEvents b s.blk = [.feed b] := if_neg h
    rw [hevents, abyte_of_not_complete h]
    exact ⟨⟨_, runEvents_single .., rfl, rfl⟩, rfl⟩

/-- Settles O51, by induction over the chunk: one ABYTE's events, then those of the rest from where they end. -/
theorem analyzeIsItsExpansion : Obligations.AnalyzeIsItsExpansion := by
  intro c s
  induction c generalizing s with
  | nil => exact ⟨⟨s, rfl, rfl, rfl⟩, rfl⟩
  | cons b c ih =>
    obtain ⟨⟨t, ht, hblk, hinputs⟩, hcollected⟩ := runEvents_abyteEvents b s
    obtain ⟨⟨u, hu, hublk, huinputs⟩, hrest⟩ := ih t
    rw [hblk] at hu hublk hrest
    rw [analyzeEvents, runEvents_append ht, collected_append ht, hcollected, hrest]
    exact ⟨⟨u, hu, hublk, huinputs.trans hinputs⟩, rfl⟩

/-! ## Frames in noise -/

/-- A byte other than the marker, fed in WAIT_SYNC, leaves WAIT_SYNC, timed out or not (R122, R124). -/
theorem feedBlock_noise_state {b : Byte} {k : Block} (hk : k.state = .waitSync) (hb : b ≠ Config.sync) :
    (feedBlock b k).1.state = .waitSync := by
  cases ht : timedOut k with
  | true => rw [feedBlock_timeoutNoise (by simp [hk]) ht hb]
  | false =>
    rw [feedBlock_noise ht hk hb]
    exact hk

theorem analyze_noise {noise : List Byte} (hnoise : Config.sync ∉ noise) {k : Block} (hk : k.state = .waitSync) :
    (analyze noise k).2 = [] ∧ (analyze noise k).1.state = .waitSync := by
  induction noise generalizing k with
  | nil => exact ⟨rfl, hk⟩
  | cons b noise ih =>
    rw [List.mem_cons, not_or] at hnoise
    have hnext := feedBlock_noise_state hk (Ne.symm hnoise.1)
    rw [analyze_cons_of_not_complete (by simp [hnext])]
    exact ih hnoise.2 hnext

/-- Noise and then a frame, from WAIT_SYNC: the frame's SDU, and the block as after reset (R165, R171). -/
theorem analyze_noise_frame {noise : List Byte} (hnoise : Config.sync ∉ noise) {f : Sdu} (hf : f.wellFormed = true)
    {k : Block} (hk : k.state = .waitSync) :
    analyze (noise ++ frameBytes f.dst f.pdu.cmd f.pdu.payload) k = (Block.reset, [f]) := by
  obtain ⟨hsync, hle⟩ := (Sdu.wellFormed_iff f).1 hf
  obtain ⟨hnone, hstate⟩ := analyze_noise hnoise hk
  have hsdu : mkSdu f.dst f.pdu.cmd f.pdu.payload = f := by
    rw [mkSdu, ← hsync]
  rw [analyze_append, hnone, analyze_frameBytes_of_marker hle (by simp [hstate]) (holdsBody_of_marker hstate), hsdu]
  rfl

/-- Settles O48, by induction over the frames: each leaves the block as after reset, which waits for the next. -/
theorem analyzerFindsEveryFrameInNoise : Obligations.AnalyzerFindsEveryFrameInNoise := by
  intro items k hitems _ hk
  induction items generalizing k with
  | nil => exact ⟨rfl, hk⟩
  | cons it items ih =>
    rw [List.forall_mem_cons] at hitems
    obtain ⟨hsdus, hstate⟩ := ih Block.reset hitems.2 Block.reset_inv rfl
    rw [List.flatMap_cons, analyze_append, analyze_noise_frame hitems.1.1 hitems.1.2 hk]
    exact ⟨congrArg (it.2 :: ·) hsdus, hstate⟩

/-! ## A corrupted byte -/

/-- One byte changed changes the running sum: the other bytes cancel (R103, R212). -/
theorem runningSum_set_ne {fed : List Byte} {j : Nat} {b : Byte} (hj : j < fed.length) (hb : fed[j]? ≠ some b) :
    runningSum (fed.set j b) ≠ runningSum fed := by
  have hsplit : fed = fed.take j ++ fed[j] :: fed.drop (j + 1) := by simp
  have hset : fed.set j b = fed.take j ++ b :: fed.drop (j + 1) := List.set_eq_take_append_cons_drop.trans (if_pos hj)
  intro hsum
  refine hb (List.getElem?_eq_getElem hj ▸ congrArg some ?_)
  rw [hset] at hsum
  conv at hsum => rhs; rw [hsplit]
  rw [runningSum_eq_byteSum, runningSum_eq_byteSum] at hsum
  simp only [byteSum_cons, byteSum_append, BitVec.ofNat_add, BitVec.add_right_inj, BitVec.add_left_inj,
    BitVec.ofNat_toNat, BitVec.setWidth_eq] at hsum
  exact hsum.symm

/-- A body with a byte other than the length byte changed is again a body, of a payload as long (R70). -/
theorem frameBody_set (dst cmd : Byte) (payload : List Byte) {j : Nat} (hj : j ≠ 2) (b : Byte) :
    ∃ dst' cmd' payload', payload'.length = payload.length ∧
      (frameBody dst cmd payload).set j b = frameBody dst' cmd' payload' := by
  match j, hj with
  | 0, _ => exact ⟨b, cmd, payload, rfl, rfl⟩
  | 1, _ => exact ⟨dst, b, payload, rfl, rfl⟩
  | j + 3, _ => exact ⟨dst, cmd, payload.set j b, List.length_set, by simp [frameBody]⟩

/-- A frame with a byte other than sync and length changed: a body of a payload as long, and a byte that is not that
body's checksum (R212 (a)). -/
theorem frameBytes_set {dst cmd : Byte} {payload : List Byte} (hle : payload.length ≤ 255) {j : Nat} {b : Byte}
    (hj : j < (frameBytes dst cmd payload).length) (hsync : j ≠ 0) (hlength : j ≠ 3)
    (hb : (frameBytes dst cmd payload)[j]? ≠ some b) :
    ∃ dst' cmd' payload' c, payload'.length ≤ 255 ∧ c ≠ checksum dst' cmd' payload' ∧
      (frameBytes dst cmd payload).set j b = Config.sync :: (frameBody dst' cmd' payload' ++ [c]) := by
  obtain ⟨j, rfl⟩ := Nat.exists_eq_succ_of_ne_zero hsync
  rw [frameBytes_eq] at hj hb ⊢
  rw [List.getElem?_cons_succ] at hb
  rw [List.set_cons_succ]
  by_cases hbody : j < (frameBody dst cmd payload).length
  · obtain ⟨dst', cmd', payload', hsame, hset⟩ := frameBody_set dst cmd payload (j := j) (by omega) b
    rw [List.getElem?_append_left hbody] at hb
    refine ⟨dst', cmd', payload', checksum dst cmd payload, hsame.trans_le hle, ?_, ?_⟩
    · rw [checksum_eq_runningSum _ _ hle, checksum_eq_runningSum _ _ (hsame.trans_le hle), ← hset]
      exact (runningSum_set_ne hbody hb).symm
    · rw [List.set_append_left _ _ hbody, hset]
  · obtain rfl : j = (frameBody dst cmd payload).length := by
      simp only [List.length_cons, List.length_append, List.length_nil] at hj
      omega
    refine ⟨dst, cmd, payload, b, hle, ?_, by simp⟩
    rintro rfl
    simp at hb

/-- Inside a frame with the watchdog just restarted, the rest of the body is held, and no SDU comes out (R165). -/
theorem HoldsBody.analyze_body {dst cmd : Byte} {payload : List Byte} (hle : payload.length ≤ 255)
    {fed later : List Byte} {k : Block} (h : HoldsBody fed k) (hwd : k.wdCnt = 0#16)
    (hbody : frameBody dst cmd payload = fed ++ later) :
    ∃ k', analyze later k = (k', []) ∧ HoldsBody (frameBody dst cmd payload) k' ∧ k'.wdCnt = 0#16 := by
  induction later generalizing fed k with
  | nil =>
    rw [List.append_nil] at hbody
    exact ⟨k, rfl, hbody ▸ h, hwd⟩
  | cons b later ih =>
    have hne : k.state ≠ .waitChecksum := by
      rw [Ne, h.stores.waitChecksum_iff hle hbody]
      simp
    have hnext := h.after_feed b hne (timedOut_of_zero hwd)
    rw [analyze_cons_of_not_complete (Phase.ne_complete_of_midFrame hnext.stores.midFrame)]
    exact ih hnext (feedBlock_watchdog b (Phase.ne_complete_of_midFrame h.stores.midFrame)).1 (by rw [hbody]; simp)

/-- From WAIT_SYNC, the marker, a body, and a byte that is not the body's checksum: no SDU, and a cleared block
(R130). -/
theorem analyze_mismatch {dst cmd c : Byte} {payload : List Byte} (hle : payload.length ≤ 255)
    (hc : c ≠ checksum dst cmd payload) {k : Block} (hk : k.state = .waitSync) :
    analyze (Config.sync :: (frameBody dst cmd payload ++ [c])) k = (clearedRestarted, []) := by
  have hmarker := holdsBody_of_marker hk
  have hwd := (feedBlock_watchdog Config.sync (k := k) (by simp [hk])).1
  obtain ⟨k', hk', hheld, hwd'⟩ := hmarker.analyze_body (later := frameBody dst cmd payload) hle hwd rfl
  have hwait : k'.state = .waitChecksum := (hheld.stores.waitChecksum_iff hle (List.append_nil _).symm).2 rfl
  have hne : c ≠ k'.chk := by rwa [hheld.chk_eq, ← checksum_eq_runningSum dst cmd hle]
  have hfeed := feedBlock_checksumMismatch (timedOut_of_zero hwd') hwait hne
  rw [analyze_cons_of_not_complete (Phase.ne_complete_of_midFrame hmarker.stores.midFrame), analyze_append, hk',
    analyze_cons_of_not_complete (by rw [hfeed]; exact nofun), hfeed]
  rfl

/-- Settles O52: the corrupted frame is the marker, some body, and a byte that is not that body's checksum. -/
theorem oneCorruptedByteIsRejected : Obligations.OneCorruptedByteIsRejected := by
  intro dst cmd payload f k j b hf _ hk hj hsync hlength hb
  obtain ⟨hle, rfl⟩ := encodeFrame_eq_some_iff.1 hf
  obtain ⟨dst', cmd', payload', c, hle', hc, hset⟩ := frameBytes_set hle hj hsync hlength hb
  rw [hset, analyze_mismatch hle' hc hk]
  exact ⟨rfl, rfl⟩

end Sys2Proof.Machine

/-! PROOF. Where a held frame came from (41_assembler_feed.md R134, 95_test_vectors.md section 8 item 7): read
backwards from a mid-frame or COMPLETE block, the run holds a marker after which nothing resets or resynchronises, and
the bytes fed since are those the block holds. -/

namespace Sys2Proof.Machine

/-! ## Events that neither reset nor resynchronise -/

/-- The event is no RESET and no RST, and as a FEED it neither times out nor mismatches (R209). -/
def Undisturbed (i : Instr) (k : Block) : Prop :=
  (i ≠ .reset ∧ i ≠ .rst) ∧
    ∀ b, i = .feed b → (feedBlock b k).2.timeout = false ∧ (feedBlock b k).2.chkFail = false

/-- Every event of the run is `Undisturbed` where it happens. -/
def UndisturbedRun : List Instr → Block → Prop
  | [], _ => True
  | i :: es, k => Undisturbed i k ∧ UndisturbedRun es (blockAfter i k)

theorem undisturbedRun_append (es fs : List Instr) (k : Block) :
    UndisturbedRun (es ++ fs) k ↔ UndisturbedRun es k ∧ UndisturbedRun fs (blockAfterAll es k) := by
  induction es generalizing k with
  | nil => exact ⟨fun h => ⟨trivial, h⟩, And.right⟩
  | cons i es ih => exact (and_congr_right fun _ => ih _).trans and_assoc.symm

theorem UndisturbedRun.ne_reset {es : List Instr} {k : Block} (h : UndisturbedRun es k) :
    ∀ e ∈ es, e ≠ .reset ∧ e ≠ .rst := by
  induction es generalizing k with
  | nil => exact nofun
  | cons i es ih => exact List.forall_mem_cons.2 ⟨h.1.1, ih h.2⟩

theorem undisturbed_of_passing {i : Instr} (hi : passing i = true) (k : Block) : Undisturbed i k := by
  cases i with
  | rst | feed _ | reset => cases hi
  | tick | nop | collect => exact ⟨⟨nofun, nofun⟩, nofun⟩

/-- A FEED is undisturbed in time and with the right checksum, and in COMPLETE in any case (R131). -/
theorem undisturbed_feed {b : Byte} {k : Block} (ht : k.state ≠ .complete → timedOut k = false)
    (hchk : k.state = .waitChecksum → b = k.chk) : Undisturbed (.feed b) k := by
  refine ⟨⟨nofun, nofun⟩, fun c hc => ?_⟩
  cases hc
  obtain ⟨htimeout, -, -, hfail, -⟩ := feedBlock_pulses b k
  constructor <;> refine Bool.eq_false_of_not_eq_true fun h => ?_
  · obtain ⟨hk, htimed⟩ := htimeout.1 h
    exact nomatch (ht hk).symm.trans htimed
  · obtain ⟨hk, -, hne⟩ := hfail.1 h
    exact hne (hchk hk)

/-- The outputs of an undisturbed event show neither a timeout nor a mismatch (R202). -/
theorem Undisturbed.exec_pulses {i : Instr} {s t : State} (h : Undisturbed i s.blk) (ht : exec i s = .next t) :
    t.out.ev.timeout = false ∧ t.out.ev.chkFail = false := by
  by_cases hi : ∀ b, i ≠ .feed b
  · exact exec_not_feed_pulses hi ht
  · obtain ⟨b, rfl⟩ := not_forall_not.1 hi
    cases (exec_feed b s).symm.trans ht
    exact h.2 b rfl

/-! ## The bytes of a run -/

theorem fedBytes_append (es fs : List Instr) : fedBytes (es ++ fs) = fedBytes es ++ fedBytes fs := by
  induction es with
  | nil => rfl
  | cons i es ih =>
    cases i with
    | feed b => exact congrArg (b :: ·) ih
    | rst | tick | nop | collect | reset => exact ih

theorem fedBytes_concat_passing (es : List Instr) {i : Instr} (hi : passing i = true) :
    fedBytes (es ++ [i]) = fedBytes es := by
  rw [fedBytes_append]
  cases i with
  | rst | feed _ | reset => cases hi
  | tick | nop | collect => exact List.append_nil _

theorem fedBytes_concat_feed (es : List Instr) (b : Byte) : fedBytes (es ++ [.feed b]) = fedBytes es ++ [b] :=
  fedBytes_append ..

/-- What is held in WAIT_CHECKSUM is a frame's body: the invariant rules out more bytes than declared (R41). -/
theorem StoresBody.frameBody_of_waitChecksum {fed : List Byte} {k : Block} (h : StoresBody fed k) (hinv : k.Inv)
    (hk : k.state = .waitChecksum) : ∃ dst cmd payload, payload.length ≤ 255 ∧ fed = frameBody dst cmd payload := by
  match fed, h with
  | [], hs => exact nomatch hk.symm.trans hs
  | [_], ⟨hs, _⟩ | [_, _], ⟨hs, _⟩ => exact nomatch hk.symm.trans hs
  | dst :: cmd :: len :: got, hs =>
    have hall : got.length = len.toNat := by
      rw [← hs.cnt_eq, hinv.countInBounds.2.1 (.inl hk), hs.len_eq]
    have hlen : BitVec.ofNat 8 got.length = len := by rw [hall, BitVec.ofNat_toNat, BitVec.setWidth_eq]
    refine ⟨dst, cmd, got, hall ▸ Nat.le_of_lt_succ len.isLt, ?_⟩
    rw [frameBody, hlen]
    rfl

/-- The checksum completes a frame whose encoding is the marker and the bytes fed since, itself the last (R104, R129).
-/
theorem HoldsBody.content_of_complete {fed : List Byte} {k : Block} (h : HoldsBody fed k) (hinv : k.Inv)
    (hk : k.state = .waitChecksum) (ht : timedOut k = false) :
    (storedSdu (feedBlock k.chk k).1).content = some (Config.sync :: (fed ++ [k.chk])) := by
  obtain ⟨dst, cmd, payload, hle, rfl⟩ := h.stores.frameBody_of_waitChecksum hinv hk
  have hchk : k.chk = checksum dst cmd payload := h.chk_eq.trans (checksum_eq_runningSum dst cmd hle).symm
  rw [hchk, (h.after_checksum hle ht).2]
  exact encodeFrame_of_le hle

/-! ## The run since the marker -/

/-- The events end in a marker's FEED and then `run`, from whose marker on nothing disturbed the block. -/
def SinceMarker (es run : List Instr) : Prop :=
  ∃ before, es = before ++ .feed Config.sync :: run ∧
    UndisturbedRun run (blockAfterAll (before ++ [.feed Config.sync]) Block.reset)

theorem sinceMarker_marker (es : List Instr) : SinceMarker (es ++ [.feed Config.sync]) [] :=
  ⟨es, rfl, trivial⟩

theorem SinceMarker.concat {es run : List Instr} {i : Instr} (h : SinceMarker es run)
    (hi : Undisturbed i (blockAfterAll es Block.reset)) : SinceMarker (es ++ [i]) (run ++ [i]) := by
  obtain ⟨before, rfl, hrun⟩ := h
  refine ⟨before, by simp, (undisturbedRun_append ..).2 ⟨hrun, ?_, trivial⟩⟩
  rwa [← blockAfterAll_append, List.append_assoc]

/-- What a run from reset leaves mid-frame or in COMPLETE was fed since a marker (R134). -/
structure Traced (es : List Instr) : Prop where
  midFrame : (blockAfterAll es Block.reset).state.midFrame = true →
    ∃ run, SinceMarker es run ∧ HoldsBody (fedBytes run) (blockAfterAll es Block.reset)
  complete : (blockAfterAll es Block.reset).state = .complete →
    ∃ frame after, SinceMarker es (frame ++ after) ∧
      (storedSdu (blockAfterAll es Block.reset)).content = some (Config.sync :: fedBytes frame)

/-- A FEED ends mid-frame in two ways: its byte is a marker just found, or it is a byte in time of a frame. -/
theorem feedBlock_midFrame_inv {b : Byte} {k : Block} (hmid : (feedBlock b k).1.state.midFrame = true) :
    (b = Config.sync ∧ HoldsBody [] (feedBlock b k).1) ∨
      (k.state.midFrame = true ∧ k.state ≠ .waitChecksum ∧ timedOut k = false) := by
  rcases feedBlock_cases b k with ⟨hk, h⟩ | ⟨-, -, hb, h⟩ | ⟨-, -, -, h⟩ | ⟨-, hk, hb, -⟩ | ⟨-, hk, -, h⟩ |
    ⟨ht, hk, -⟩ | ⟨ht, hk, -⟩ | ⟨ht, hk, -⟩ | ⟨ht, hk, -⟩ | ⟨-, -, -, h⟩ | ⟨-, -, -, h⟩
  case inl => simp [h, hk, Phase.midFrame] at hmid
  · exact .inl ⟨hb, h ▸ ⟨rfl, rfl⟩⟩
  · simp [h, Phase.midFrame] at hmid
  · exact .inl ⟨hb, hb ▸ holdsBody_of_marker hk⟩
  · simp [h, hk, Phase.midFrame] at hmid
  · exact .inr (by simp [hk, ht, Phase.midFrame])
  · exact .inr (by simp [hk, ht, Phase.midFrame])
  · exact .inr (by simp [hk, ht, Phase.midFrame])
  · exact .inr (by simp [hk, ht, Phase.midFrame])
  · simp [h, Phase.midFrame] at hmid
  · simp [h, Phase.midFrame] at hmid

/-- RST and RESET leave WAIT_SYNC, where nothing is claimed. -/
theorem traced_of_waitSync {es : List Instr} (h : (blockAfterAll es Block.reset).state = .waitSync) : Traced es where
  midFrame hmid := by simp [h, Phase.midFrame] at hmid
  complete hc := nomatch h.symm.trans hc

theorem Traced.concat_passing {es : List Instr} (h : Traced es) {i : Instr} (hi : passing i = true) :
    Traced (es ++ [i]) := by
  have hquiet := undisturbed_of_passing hi (blockAfterAll es Block.reset)
  obtain ⟨n, hn, -⟩ := blockAfter_passing hi (blockAfterAll es Block.reset)
  have hafter : blockAfterAll (es ++ [i]) Block.reset = { blockAfterAll es Block.reset with wdCnt := n } := by
    rw [blockAfterAll_append, ← hn]
    rfl
  constructor <;> rw [hafter]
  · intro hmid
    obtain ⟨run, hrun, hheld⟩ := h.midFrame hmid
    rw [← fedBytes_concat_passing run hi] at hheld
    exact ⟨_, hrun.concat hquiet, hheld.chk_eq, hheld.stores.setWatchdog _ n⟩
  · intro hc
    obtain ⟨frame, after, hrun, hcontent⟩ := h.complete hc
    exact ⟨frame, after ++ [i], List.append_assoc frame after [i] ▸ hrun.concat hquiet, hcontent⟩

theorem Traced.concat_feed {es : List Instr} (h : Traced es) (b : Byte) : Traced (es ++ [.feed b]) := by
  have hinv := Block.reset_inv.blockAfterAll es
  constructor <;> rw [blockAfterAll_concat_feed]
  · intro hmid
    rcases feedBlock_midFrame_inv hmid with ⟨rfl, hheld⟩ | ⟨hmid', hne, ht⟩
    · exact ⟨[], sinceMarker_marker es, hheld⟩
    · obtain ⟨run, hrun, hheld⟩ := h.midFrame hmid'
      refine ⟨run ++ [.feed b], hrun.concat (undisturbed_feed (fun _ => ht) fun hk => absurd hk hne), ?_⟩
      rw [fedBytes_concat_feed]
      exact hheld.after_feed b hne ht
  · intro hc
    rcases (feedBlock_state_eq_complete_iff b _).1 hc with hk | ⟨hk, ht, hb⟩
    · obtain ⟨frame, after, hrun, hcontent⟩ := h.complete hk
      have hnext := hrun.concat (undisturbed_feed (b := b) (fun hne => absurd hk hne) (by simp [hk]))
      rw [feedBlock_complete b _ hk]
      exact ⟨frame, after ++ [.feed b], List.append_assoc frame after [.feed b] ▸ hnext, hcontent⟩
    · obtain ⟨run, hrun, hheld⟩ := h.midFrame (by simp [hk, Phase.midFrame])
      refine ⟨run ++ [.feed b], [], ?_, ?_⟩
      · rw [List.append_nil]
        exact hrun.concat (undisturbed_feed (fun _ => ht) fun _ => hb)
      · rw [fedBytes_concat_feed, hb]
        exact hheld.content_of_complete hinv hk ht

/-- Every run from reset is traced, by induction on its last event. -/
theorem traced (es : List Instr) : Traced es := by
  induction es using List.reverseRecOn with
  | nil => exact traced_of_waitSync rfl
  | append_singleton es i ih =>
    cases i with
    | rst | reset =>
      refine traced_of_waitSync ?_
      rw [blockAfterAll_append]
      rfl
    | tick | nop | collect => exact ih.concat_passing rfl
    | feed b => exact ih.concat_feed b

/-- Settles O54: the run is traced, so its COMPLETE block was fed since a marker; each later event is undisturbed
where it happens, so its outputs show neither pulse. -/
theorem handedOutFrameWasFed : Obligations.HandedOutFrameWasFed := by
  intro inputs es t ht hc
  obtain ⟨t', ht', hblk⟩ := runEvents_blockAfterAll es { State.reset with inputs := inputs }
  cases ht.symm.trans ht'
  have hblk : t.blk = blockAfterAll es Block.reset := hblk
  obtain ⟨frame, after, ⟨before, hes, hrun⟩, hcontent⟩ := (traced es).complete (hblk ▸ hc)
  rw [← hblk] at hcontent
  refine ⟨before, frame, after, _, by simpa using hes, exec_collect_complete t hc, hcontent, hrun.ne_reset,
    fun done e rest hsplit => ?_⟩
  rw [hsplit, undisturbedRun_append, ← blockAfterAll_append] at hrun
  obtain ⟨u, hu, hublk⟩ := runEvents_blockAfterAll (before ++ [.feed Config.sync] ++ done)
    { State.reset with inputs := inputs }
  obtain ⟨o, ho⟩ := exec_spec e u
  have hquiet : Undisturbed e u.blk := hublk ▸ hrun.2.1
  refine ⟨_, ?_, hquiet.exec_pulses ho⟩
  rw [← ho, ← runEvents_single e u, ← runEvents_append hu]
  simp

end Sys2Proof.Machine
